-- ==== Sys2Proof/Word.lean ====
section
/-! DEFINITION. The word and byte types of the engine. -/

namespace Sys2Proof

/-- A 32-bit register word (00_scope.md §5: `AW`, `LW`; 10_state.md R20). -/
abbrev Word := BitVec 32

/-- A byte of memory (20_memory.md R50). -/
abbrev Byte := BitVec 8

end Sys2Proof
end

