-- ==== Sys2Proof/Config.lean ====
section
/-! DEFINITION. What an implementation or a platform fixes: the value an unlisted byte of memory reads as, and the FREE
values, which are constants without a body. The spec's three open parameters (00_scope.md R6) other than at their defaults
are such constants; the defaults themselves are numbers of the spec and stand in Machine/. -/

namespace Sys2Proof.Config

/-- What a byte of memory that the state does not list reads as. The spec leaves the contents of memory to the host
(70_reset_and_hazards.md R312). DESIGN CHOICE, unsafe: log 1. -/
def unlistedByte : Byte := 0

/-- `CSC_KERNEL.y2r` of an engine whose kernel is not the default one, by the number of the choice: a total function of
the two profile bits and the three components, and nothing else is known of it (42_color_space.md R192). Free: log 3. -/
opaque otherY2R : Nat → Bool → Bool → Int → Int → Int → Int × Int × Int

/-- `CSC_KERNEL.r2y` of an engine whose kernel is not the default one (42_color_space.md R192). Free: log 3. -/
opaque otherR2Y : Nat → Bool → Bool → Int → Int → Int → Int × Int × Int

/-- `ALPHA_DEFAULT(depth)` of an engine that does not have the default one, by the number of the choice and the depth in
bits (42_color_space.md R200). Free: log 3. -/
opaque otherAlpha : Nat → Nat → Nat

/-- `PL2_LAYOUT` of an engine that does not have the default one. Every bijection between 20-byte groups and sixteen
ten-bit samples is the default one after a permutation of the 160 bits' values, and this is that permutation
(41_line_codec.md R169). Free: log 3 and log 4. -/
opaque otherLayout : Nat → Equiv.Perm (BitVec 160)

/-- The packed bytes of a group whose samples do not fit, which 41_line_codec.md R172 leaves undefined: by the draw and
the byte's place in the packed line. Free: log 5. -/
opaque undefinedByte : Nat → Nat → Byte

/-- How many of an operation's byte writes were performed when a reset abandoned it (70_reset_and_hazards.md R310), by
the draw. Free: log 9. -/
opaque writesBeforeReset : Nat → Nat

end Sys2Proof.Config
end

