-- ==== Sys2Proof/Syntax.lean ====
section
/-! DEFINITION. The commands of the engine as syntax: one constructor of `Instr` for every row of spec/opcode_table.json
(30_encoding.md R82 to R88). Operand words are naturals (00_scope.md R8); that they are below 2^32 is WellFormed.lean's. -/

namespace Sys2Proof

/-- PixelFormat, the closed enumeration of 40_catalog_descriptor.md R120; codes 13 to 63 have no name. -/
inductive PixelFormat where
  | y10p | y10pBE | y8p | rgb24 | rgba32 | rgb48 | rgb10p | rgb10pBE | rgb12p
  | y10_420pl2 | y8_422pl3 | y8_420pl3 | compressed
  | unassigned (code : Nat)
deriving DecidableEq, Repr

/-- The depth of an RGB line, `DEP` and `DEP2` (30_encoding.md R81); the reserved code 3 is no depth. -/
inductive Depth where
  | d8 | d10 | d16
deriving DecidableEq, Repr

/-- A quadrant, `Q` (44_raster_transforms.md R256: 0 upper left, 1 upper right, 2 lower left, 3 lower right). -/
inductive Quadrant where
  | upperLeft | upperRight | lowerLeft | lowerRight
deriving DecidableEq, Repr

/-- The three numbers that stand for the raster standard (30_encoding.md R82). -/
structure RasterSize where
  width : Nat
  activeHeight : Nat
  vancLines : Nat
deriving DecidableEq, Repr

/-- The optional descriptor of a line-codec command, present when `HD = 1` (30_encoding.md R83). -/
structure LineDescriptor where
  dfmt : PixelFormat
  vm : Bool
  size : RasterSize
deriving DecidableEq, Repr

/-- The operands of format L (30_encoding.md R83); `desc` is `none` when `HD = 0`. -/
structure LineArgs where
  packedAddr : Nat
  packedLen : Nat
  compAddr : Nat
  compLen : Nat
  pixelCount : Nat
  desc : Option LineDescriptor
deriving DecidableEq, Repr

/-- The operand words of format C (30_encoding.md R84). -/
structure LinePair where
  srcAddr : Nat
  srcLen : Nat
  dstAddr : Nat
  dstLen : Nat
  pixelCount : Nat
deriving DecidableEq, Repr

/-- The operand words of format V (30_encoding.md R85). -/
structure ViewArgs where
  aAddr : Nat
  aLen : Nat
  bAddr : Nat
  bLen : Nat
  size : RasterSize
deriving DecidableEq, Repr

/-- The operand words of format B (30_encoding.md R86). -/
structure BlitArgs where
  srcAddr : Nat
  srcPitch : Nat
  srcHeight : Nat
  dstAddr : Nat
  dstPitch : Nat
  dstHeight : Nat
  srcX : Nat
  srcY : Nat
  rectW : Nat
  rectH : Nat
  dstX : Nat
  dstY : Nat
deriving DecidableEq, Repr

/-- The operand words of format Q (30_encoding.md R87). -/
structure QuadArgs where
  fullAddr : Nat
  fullPitch : Nat
  fullHeight : Nat
  quadAddr : Nat
  quad13Offset : Nat
deriving DecidableEq, Repr

/-- One constructor for every row of spec/opcode_table.json, in the table's order. -/
inductive Instr where
  | geom (fmt : PixelFormat)
  | desc (fmt : PixelFormat) (vm : Bool) (r : RasterSize)
  | unpackY10P (a : LineArgs)
  | unpackY10P_BE (a : LineArgs)
  | unpackY8P (a : LineArgs)
  | unpackRGB24 (a : LineArgs)
  | unpackRGBA32 (a : LineArgs)
  | unpackRGB48 (a : LineArgs)
  | unpackRGB10P (a : LineArgs)
  | unpackRGB10P_BE (a : LineArgs)
  | unpackRGB12P (a : LineArgs)
  | unpackY10_420_PL2 (a : LineArgs)
  | unpackY8_422_PL3 (a : LineArgs)
  | unpackY8_420_PL3 (a : LineArgs)
  | unpackCOMPRESSED (a : LineArgs)
  | unpack13 (a : LineArgs)
  | unpack14 (a : LineArgs)
  | unpack15 (a : LineArgs)
  | unpack16 (a : LineArgs)
  | unpack17 (a : LineArgs)
  | unpack18 (a : LineArgs)
  | unpack19 (a : LineArgs)
  | unpack20 (a : LineArgs)
  | unpack21 (a : LineArgs)
  | unpack22 (a : LineArgs)
  | unpack23 (a : LineArgs)
  | unpack24 (a : LineArgs)
  | unpack25 (a : LineArgs)
  | unpack26 (a : LineArgs)
  | unpack27 (a : LineArgs)
  | unpack28 (a : LineArgs)
  | unpack29 (a : LineArgs)
  | unpack30 (a : LineArgs)
  | unpack31 (a : LineArgs)
  | unpack32 (a : LineArgs)
  | unpack33 (a : LineArgs)
  | unpack34 (a : LineArgs)
  | unpack35 (a : LineArgs)
  | unpack36 (a : LineArgs)
  | unpack37 (a : LineArgs)
  | unpack38 (a : LineArgs)
  | unpack39 (a : LineArgs)
  | unpack40 (a : LineArgs)
  | unpack41 (a : LineArgs)
  | unpack42 (a : LineArgs)
  | unpack43 (a : LineArgs)
  | unpack44 (a : LineArgs)
  | unpack45 (a : LineArgs)
  | unpack46 (a : LineArgs)
  | unpack47 (a : LineArgs)
  | unpack48 (a : LineArgs)
  | unpack49 (a : LineArgs)
  | unpack50 (a : LineArgs)
  | unpack51 (a : LineArgs)
  | unpack52 (a : LineArgs)
  | unpack53 (a : LineArgs)
  | unpack54 (a : LineArgs)
  | unpack55 (a : LineArgs)
  | unpack56 (a : LineArgs)
  | unpack57 (a : LineArgs)
  | unpack58 (a : LineArgs)
  | unpack59 (a : LineArgs)
  | unpack60 (a : LineArgs)
  | unpack61 (a : LineArgs)
  | unpack62 (a : LineArgs)
  | unpack63 (a : LineArgs)
  | packY10P (a : LineArgs)
  | packY10P_BE (a : LineArgs)
  | packY8P (a : LineArgs)
  | packRGB24 (a : LineArgs)
  | packRGBA32 (a : LineArgs)
  | packRGB48 (a : LineArgs)
  | packRGB10P (a : LineArgs)
  | packRGB10P_BE (a : LineArgs)
  | packRGB12P (a : LineArgs)
  | packY10_420_PL2 (a : LineArgs)
  | packY8_422_PL3 (a : LineArgs)
  | packY8_420_PL3 (a : LineArgs)
  | packCOMPRESSED (a : LineArgs)
  | pack13 (a : LineArgs)
  | pack14 (a : LineArgs)
  | pack15 (a : LineArgs)
  | pack16 (a : LineArgs)
  | pack17 (a : LineArgs)
  | pack18 (a : LineArgs)
  | pack19 (a : LineArgs)
  | pack20 (a : LineArgs)
  | pack21 (a : LineArgs)
  | pack22 (a : LineArgs)
  | pack23 (a : LineArgs)
  | pack24 (a : LineArgs)
  | pack25 (a : LineArgs)
  | pack26 (a : LineArgs)
  | pack27 (a : LineArgs)
  | pack28 (a : LineArgs)
  | pack29 (a : LineArgs)
  | pack30 (a : LineArgs)
  | pack31 (a : LineArgs)
  | pack32 (a : LineArgs)
  | pack33 (a : LineArgs)
  | pack34 (a : LineArgs)
  | pack35 (a : LineArgs)
  | pack36 (a : LineArgs)
  | pack37 (a : LineArgs)
  | pack38 (a : LineArgs)
  | pack39 (a : LineArgs)
  | pack40 (a : LineArgs)
  | pack41 (a : LineArgs)
  | pack42 (a : LineArgs)
  | pack43 (a : LineArgs)
  | pack44 (a : LineArgs)
  | pack45 (a : LineArgs)
  | pack46 (a : LineArgs)
  | pack47 (a : LineArgs)
  | pack48 (a : LineArgs)
  | pack49 (a : LineArgs)
  | pack50 (a : LineArgs)
  | pack51 (a : LineArgs)
  | pack52 (a : LineArgs)
  | pack53 (a : LineArgs)
  | pack54 (a : LineArgs)
  | pack55 (a : LineArgs)
  | pack56 (a : LineArgs)
  | pack57 (a : LineArgs)
  | pack58 (a : LineArgs)
  | pack59 (a : LineArgs)
  | pack60 (a : LineArgs)
  | pack61 (a : LineArgs)
  | pack62 (a : LineArgs)
  | pack63 (a : LineArgs)
  | cscY2R (sd sr al a4 : Bool) (dep : Depth) (b : LinePair)
  | cscR2Y (sd sr a4 : Bool) (dep : Depth) (b : LinePair)
  | cscRDepth (a4 : Bool) (dep dep2 : Depth) (b : LinePair)
  | view (fmt : PixelFormat) (vm : Bool) (v : ViewArgs)
  | cmpv (fmt : PixelFormat) (vm : Bool) (v : ViewArgs)
  | blit (fmt : PixelFormat) (b : BlitArgs)
  | qsplit (q : Quadrant) (a : QuadArgs)
  | qmerge (q : Quadrant) (a : QuadArgs)
deriving DecidableEq, Repr

end Sys2Proof
end

