-- ==== Sys2Proof/WellFormed.lean ====
section
/-! DEFINITION. When a command term is one that a command word can spell: every operand word a natural below 2^32
(00_scope.md R8, 30_encoding.md R80) and an unnamed PixelFormat code one of 13 to 63 (40_catalog_descriptor.md R120). -/

namespace Sys2Proof

/-- An operand word is a natural below 2^32 (00_scope.md R8). -/
def wordOk (n : Nat) : Bool := decide (n < 2 ^ 32)

/-- The unnamed PixelFormat codes are 13 to 63 (40_catalog_descriptor.md R120). -/
def PixelFormat.wf (f : PixelFormat) : Bool :=
  match f with
  | .unassigned n => decide (13 ≤ n ∧ n ≤ 63)
  | .y10p | .y10pBE | .y8p | .rgb24 | .rgba32 | .rgb48 | .rgb10p | .rgb10pBE | .rgb12p | .y10_420pl2 | .y8_422pl3
  | .y8_420pl3 | .compressed => true

def RasterSize.wf (r : RasterSize) : Bool := wordOk r.width && wordOk r.activeHeight && wordOk r.vancLines

def LineDescriptor.wf (d : LineDescriptor) : Bool := d.dfmt.wf && d.size.wf

def LineArgs.wf (a : LineArgs) : Bool :=
  wordOk a.packedAddr && wordOk a.packedLen && wordOk a.compAddr && wordOk a.compLen && wordOk a.pixelCount &&
    a.desc.all LineDescriptor.wf

def LinePair.wf (b : LinePair) : Bool :=
  wordOk b.srcAddr && wordOk b.srcLen && wordOk b.dstAddr && wordOk b.dstLen && wordOk b.pixelCount

def ViewArgs.wf (v : ViewArgs) : Bool :=
  wordOk v.aAddr && wordOk v.aLen && wordOk v.bAddr && wordOk v.bLen && v.size.wf

def BlitArgs.wf (b : BlitArgs) : Bool :=
  wordOk b.srcAddr && wordOk b.srcPitch && wordOk b.srcHeight && wordOk b.dstAddr && wordOk b.dstPitch &&
    wordOk b.dstHeight && wordOk b.srcX && wordOk b.srcY && wordOk b.rectW && wordOk b.rectH && wordOk b.dstX &&
    wordOk b.dstY

def QuadArgs.wf (a : QuadArgs) : Bool :=
  wordOk a.fullAddr && wordOk a.fullPitch && wordOk a.fullHeight && wordOk a.quadAddr && wordOk a.quad13Offset

/-- The check of a whole command, by its operands. -/
def Instr.wf (i : Instr) : Bool :=
  match i with
  | .geom fmt => fmt.wf
  | .desc fmt _ r => fmt.wf && r.wf
  | .unpackY10P a => a.wf
  | .unpackY10P_BE a => a.wf
  | .unpackY8P a => a.wf
  | .unpackRGB24 a => a.wf
  | .unpackRGBA32 a => a.wf
  | .unpackRGB48 a => a.wf
  | .unpackRGB10P a => a.wf
  | .unpackRGB10P_BE a => a.wf
  | .unpackRGB12P a => a.wf
  | .unpackY10_420_PL2 a => a.wf
  | .unpackY8_422_PL3 a => a.wf
  | .unpackY8_420_PL3 a => a.wf
  | .unpackCOMPRESSED a => a.wf
  | .unpack13 a => a.wf
  | .unpack14 a => a.wf
  | .unpack15 a => a.wf
  | .unpack16 a => a.wf
  | .unpack17 a => a.wf
  | .unpack18 a => a.wf
  | .unpack19 a => a.wf
  | .unpack20 a => a.wf
  | .unpack21 a => a.wf
  | .unpack22 a => a.wf
  | .unpack23 a => a.wf
  | .unpack24 a => a.wf
  | .unpack25 a => a.wf
  | .unpack26 a => a.wf
  | .unpack27 a => a.wf
  | .unpack28 a => a.wf
  | .unpack29 a => a.wf
  | .unpack30 a => a.wf
  | .unpack31 a => a.wf
  | .unpack32 a => a.wf
  | .unpack33 a => a.wf
  | .unpack34 a => a.wf
  | .unpack35 a => a.wf
  | .unpack36 a => a.wf
  | .unpack37 a => a.wf
  | .unpack38 a => a.wf
  | .unpack39 a => a.wf
  | .unpack40 a => a.wf
  | .unpack41 a => a.wf
  | .unpack42 a => a.wf
  | .unpack43 a => a.wf
  | .unpack44 a => a.wf
  | .unpack45 a => a.wf
  | .unpack46 a => a.wf
  | .unpack47 a => a.wf
  | .unpack48 a => a.wf
  | .unpack49 a => a.wf
  | .unpack50 a => a.wf
  | .unpack51 a => a.wf
  | .unpack52 a => a.wf
  | .unpack53 a => a.wf
  | .unpack54 a => a.wf
  | .unpack55 a => a.wf
  | .unpack56 a => a.wf
  | .unpack57 a => a.wf
  | .unpack58 a => a.wf
  | .unpack59 a => a.wf
  | .unpack60 a => a.wf
  | .unpack61 a => a.wf
  | .unpack62 a => a.wf
  | .unpack63 a => a.wf
  | .packY10P a => a.wf
  | .packY10P_BE a => a.wf
  | .packY8P a => a.wf
  | .packRGB24 a => a.wf
  | .packRGBA32 a => a.wf
  | .packRGB48 a => a.wf
  | .packRGB10P a => a.wf
  | .packRGB10P_BE a => a.wf
  | .packRGB12P a => a.wf
  | .packY10_420_PL2 a => a.wf
  | .packY8_422_PL3 a => a.wf
  | .packY8_420_PL3 a => a.wf
  | .packCOMPRESSED a => a.wf
  | .pack13 a => a.wf
  | .pack14 a => a.wf
  | .pack15 a => a.wf
  | .pack16 a => a.wf
  | .pack17 a => a.wf
  | .pack18 a => a.wf
  | .pack19 a => a.wf
  | .pack20 a => a.wf
  | .pack21 a => a.wf
  | .pack22 a => a.wf
  | .pack23 a => a.wf
  | .pack24 a => a.wf
  | .pack25 a => a.wf
  | .pack26 a => a.wf
  | .pack27 a => a.wf
  | .pack28 a => a.wf
  | .pack29 a => a.wf
  | .pack30 a => a.wf
  | .pack31 a => a.wf
  | .pack32 a => a.wf
  | .pack33 a => a.wf
  | .pack34 a => a.wf
  | .pack35 a => a.wf
  | .pack36 a => a.wf
  | .pack37 a => a.wf
  | .pack38 a => a.wf
  | .pack39 a => a.wf
  | .pack40 a => a.wf
  | .pack41 a => a.wf
  | .pack42 a => a.wf
  | .pack43 a => a.wf
  | .pack44 a => a.wf
  | .pack45 a => a.wf
  | .pack46 a => a.wf
  | .pack47 a => a.wf
  | .pack48 a => a.wf
  | .pack49 a => a.wf
  | .pack50 a => a.wf
  | .pack51 a => a.wf
  | .pack52 a => a.wf
  | .pack53 a => a.wf
  | .pack54 a => a.wf
  | .pack55 a => a.wf
  | .pack56 a => a.wf
  | .pack57 a => a.wf
  | .pack58 a => a.wf
  | .pack59 a => a.wf
  | .pack60 a => a.wf
  | .pack61 a => a.wf
  | .pack62 a => a.wf
  | .pack63 a => a.wf
  | .cscY2R _ _ _ _ _ b => b.wf
  | .cscR2Y _ _ _ _ b => b.wf
  | .cscRDepth _ _ _ b => b.wf
  | .view fmt _ v => fmt.wf && v.wf
  | .cmpv fmt _ v => fmt.wf && v.wf
  | .blit fmt b => fmt.wf && b.wf
  | .qsplit _ a => a.wf
  | .qmerge _ a => a.wf

/-- A well-formed command: a term that some sixteen command words spell. -/
abbrev WellFormed (i : Instr) : Prop := i.wf = true

end Sys2Proof
end

