-- ==== Sys2Proof/Decode.lean ====
section
/-! DEFINITION. From command words to a command and back (30_encoding.md). `decode` is total: each sixteen words are one
command with all its operands, or are illegal for a named cause (R89, R90). `encode` is written from the same tables. -/

namespace Sys2Proof

/-- The sixteen command words `CMD[0..15]` (30_encoding.md R80). -/
abbrev Command := Vector Word 16

/-- Why a command is illegal (30_encoding.md R90). The engine reports every cause as `IllegalCommand`. -/
inductive DecodeError where
  /-- R90 (a): `op` is not one of the twelve values. -/
  | unknownOpcode
  /-- R90 (b): an unused field of `CMD[0]` is not zero. -/
  | unusedField
  /-- R90 (b): an unused operand word is not zero. -/
  | unusedWord
  /-- R90 (c): a used `DEP` or `DEP2` holds the reserved value 3. -/
  | reservedDepth
deriving DecidableEq, Repr

/-- `v[hi:lo]` as a natural number (00_scope.md R7). -/
def field (v : Word) (hi lo : Nat) : Nat := v.toNat / 2 ^ lo % 2 ^ (hi + 1 - lo)

/-- One bit of a word as a flag. -/
def flag (v : Word) (n : Nat) : Bool := decide (field v n n = 1)

/-- The code of a PixelFormat (40_catalog_descriptor.md R120). -/
def formatCode (f : PixelFormat) : Nat :=
  match f with
  | .y10p => 0
  | .y10pBE => 1
  | .y8p => 2
  | .rgb24 => 3
  | .rgba32 => 4
  | .rgb48 => 5
  | .rgb10p => 6
  | .rgb10pBE => 7
  | .rgb12p => 8
  | .y10_420pl2 => 9
  | .y8_422pl3 => 10
  | .y8_420pl3 => 11
  | .compressed => 12
  | .unassigned n => n

/-- The PixelFormat of a code: every code is one (30_encoding.md R91). -/
def formatOfCode (n : Nat) : PixelFormat :=
  match n with
  | 0 => .y10p
  | 1 => .y10pBE
  | 2 => .y8p
  | 3 => .rgb24
  | 4 => .rgba32
  | 5 => .rgb48
  | 6 => .rgb10p
  | 7 => .rgb10pBE
  | 8 => .rgb12p
  | 9 => .y10_420pl2
  | 10 => .y8_422pl3
  | 11 => .y8_420pl3
  | 12 => .compressed
  | n => .unassigned n

/-- The code of a depth (30_encoding.md R81, `DEP`). -/
def depthCode (d : Depth) : Nat :=
  match d with
  | .d8 => 0
  | .d10 => 1
  | .d16 => 2

/-- The depth of a code; 3 is reserved (30_encoding.md R81, R90 (c)). -/
def depthOfCode (n : Nat) : Option Depth :=
  match n with
  | 0 => some .d8
  | 1 => some .d10
  | 2 => some .d16
  | _ => none

/-- The number of a quadrant (30_encoding.md R81, 44_raster_transforms.md R256). -/
def quadrantCode (q : Quadrant) : Nat :=
  match q with
  | .upperLeft => 0
  | .upperRight => 1
  | .lowerLeft => 2
  | .lowerRight => 3

/-- The quadrant of a two-bit number. -/
def quadrantOfCode (n : Nat) : Quadrant :=
  match n with
  | 0 => .upperLeft
  | 1 => .upperRight
  | 2 => .lowerLeft
  | _ => .lowerRight

/-- The row of `UNPACK` for a PixelFormat code (30_encoding.md R88). -/
def unpackOfCode (code : Nat) : Option (LineArgs → Instr) :=
  match code with
  | 0 => some .unpackY10P
  | 1 => some .unpackY10P_BE
  | 2 => some .unpackY8P
  | 3 => some .unpackRGB24
  | 4 => some .unpackRGBA32
  | 5 => some .unpackRGB48
  | 6 => some .unpackRGB10P
  | 7 => some .unpackRGB10P_BE
  | 8 => some .unpackRGB12P
  | 9 => some .unpackY10_420_PL2
  | 10 => some .unpackY8_422_PL3
  | 11 => some .unpackY8_420_PL3
  | 12 => some .unpackCOMPRESSED
  | 13 => some .unpack13
  | 14 => some .unpack14
  | 15 => some .unpack15
  | 16 => some .unpack16
  | 17 => some .unpack17
  | 18 => some .unpack18
  | 19 => some .unpack19
  | 20 => some .unpack20
  | 21 => some .unpack21
  | 22 => some .unpack22
  | 23 => some .unpack23
  | 24 => some .unpack24
  | 25 => some .unpack25
  | 26 => some .unpack26
  | 27 => some .unpack27
  | 28 => some .unpack28
  | 29 => some .unpack29
  | 30 => some .unpack30
  | 31 => some .unpack31
  | 32 => some .unpack32
  | 33 => some .unpack33
  | 34 => some .unpack34
  | 35 => some .unpack35
  | 36 => some .unpack36
  | 37 => some .unpack37
  | 38 => some .unpack38
  | 39 => some .unpack39
  | 40 => some .unpack40
  | 41 => some .unpack41
  | 42 => some .unpack42
  | 43 => some .unpack43
  | 44 => some .unpack44
  | 45 => some .unpack45
  | 46 => some .unpack46
  | 47 => some .unpack47
  | 48 => some .unpack48
  | 49 => some .unpack49
  | 50 => some .unpack50
  | 51 => some .unpack51
  | 52 => some .unpack52
  | 53 => some .unpack53
  | 54 => some .unpack54
  | 55 => some .unpack55
  | 56 => some .unpack56
  | 57 => some .unpack57
  | 58 => some .unpack58
  | 59 => some .unpack59
  | 60 => some .unpack60
  | 61 => some .unpack61
  | 62 => some .unpack62
  | 63 => some .unpack63
  | _ => none

/-- The row of `PACK` for a PixelFormat code (30_encoding.md R88). -/
def packOfCode (code : Nat) : Option (LineArgs → Instr) :=
  match code with
  | 0 => some .packY10P
  | 1 => some .packY10P_BE
  | 2 => some .packY8P
  | 3 => some .packRGB24
  | 4 => some .packRGBA32
  | 5 => some .packRGB48
  | 6 => some .packRGB10P
  | 7 => some .packRGB10P_BE
  | 8 => some .packRGB12P
  | 9 => some .packY10_420_PL2
  | 10 => some .packY8_422_PL3
  | 11 => some .packY8_420_PL3
  | 12 => some .packCOMPRESSED
  | 13 => some .pack13
  | 14 => some .pack14
  | 15 => some .pack15
  | 16 => some .pack16
  | 17 => some .pack17
  | 18 => some .pack18
  | 19 => some .pack19
  | 20 => some .pack20
  | 21 => some .pack21
  | 22 => some .pack22
  | 23 => some .pack23
  | 24 => some .pack24
  | 25 => some .pack25
  | 26 => some .pack26
  | 27 => some .pack27
  | 28 => some .pack28
  | 29 => some .pack29
  | 30 => some .pack30
  | 31 => some .pack31
  | 32 => some .pack32
  | 33 => some .pack33
  | 34 => some .pack34
  | 35 => some .pack35
  | 36 => some .pack36
  | 37 => some .pack37
  | 38 => some .pack38
  | 39 => some .pack39
  | 40 => some .pack40
  | 41 => some .pack41
  | 42 => some .pack42
  | 43 => some .pack43
  | 44 => some .pack44
  | 45 => some .pack45
  | 46 => some .pack46
  | 47 => some .pack47
  | 48 => some .pack48
  | 49 => some .pack49
  | 50 => some .pack50
  | 51 => some .pack51
  | 52 => some .pack52
  | 53 => some .pack53
  | 54 => some .pack54
  | 55 => some .pack55
  | 56 => some .pack56
  | 57 => some .pack57
  | 58 => some .pack58
  | 59 => some .pack59
  | 60 => some .pack60
  | 61 => some .pack61
  | 62 => some .pack62
  | 63 => some .pack63
  | _ => none

/-- The bits of `CMD[0]` that a row leaves unused, as fields (hi, lo): the `mbz` column of 30_encoding.md section 5. -/
abbrev UnusedFields := List (Nat × Nat)

def geomUnused : UnusedFields := [(31, 14)]
def descUnused : UnusedFields := [(31, 22), (20, 14)]
def lineUnused : UnusedFields := [(31, 22)]
def lineUnusedWithoutDescriptor : UnusedFields := [(31, 21), (19, 14)]
def y2rUnused : UnusedFields := [(31, 28), (21, 8)]
def r2yUnused : UnusedFields := [(31, 28), (24, 24), (21, 8)]
def rdepthUnused : UnusedFields := [(31, 30), (24, 8)]
def viewUnused : UnusedFields := [(31, 22), (20, 14)]
def blitUnused : UnusedFields := [(31, 14)]
def quadUnused : UnusedFields := [(29, 8)]

/-- The mask a list of unused fields stands for. -/
def maskOf (u : UnusedFields) : Nat := u.foldl (fun m f => m ||| (2 ^ (f.1 + 1) - 2 ^ f.2)) 0

/-- Every unused field of `CMD[0]` is zero (30_encoding.md R89). -/
def fieldsZero (v : Word) (u : UnusedFields) : Bool := u.all fun f => decide (field v f.1 f.2 = 0)

/-- The operand words from `CMD[first]` on are zero (30_encoding.md R89). -/
def wordsZeroFrom (first : Nat) (cmd : Command) : Bool := decide (∀ i : Fin 16, first ≤ i.val → cmd[i] = 0)

/-- The must-be-zero rule (30_encoding.md R89), then the rest of a row's decoding. -/
def mustBeZero (u : UnusedFields) (first : Nat) (cmd : Command) (row : Except DecodeError Instr) :
    Except DecodeError Instr :=
  if fieldsZero cmd[0] u = false then .error .unusedField
  else if wordsZeroFrom first cmd = false then .error .unusedWord
  else row

/-- A command word as the natural it is (30_encoding.md R80: "a word is the value"). -/
def operand (cmd : Command) (i : Fin 16) : Nat := cmd[i].toNat

/-- The `fmt` field. -/
def fmtField (cmd : Command) : PixelFormat := formatOfCode (field cmd[0] 13 8)

/-- Three consecutive words as the numbers of a raster. -/
def rasterSizeAt (cmd : Command) (w h v : Fin 16) : RasterSize := ⟨operand cmd w, operand cmd h, operand cmd v⟩

/-- Format L, the words both forms use (30_encoding.md R83). -/
def lineArgsOf (cmd : Command) (desc : Option LineDescriptor) : LineArgs :=
  ⟨operand cmd 1, operand cmd 2, operand cmd 3, operand cmd 4, operand cmd 5, desc⟩

/-- Format L (30_encoding.md R83); `row` is the direction's row for a PixelFormat code. -/
def decodeLine (row : Nat → Option (LineArgs → Instr)) (cmd : Command) : Except DecodeError Instr :=
  match row (field cmd[0] 13 8) with
  | none => .error .unknownOpcode
  | some make =>
    if flag cmd[0] 20 then
      mustBeZero lineUnused 9 cmd
        (.ok (make (lineArgsOf cmd (some ⟨formatOfCode (field cmd[0] 19 14), flag cmd[0] 21, rasterSizeAt cmd 6 7 8⟩))))
    else mustBeZero lineUnusedWithoutDescriptor 6 cmd (.ok (make (lineArgsOf cmd none)))

/-- The words of format C (30_encoding.md R84). -/
def linePairOf (cmd : Command) : LinePair := ⟨operand cmd 1, operand cmd 2, operand cmd 3, operand cmd 4, operand cmd 5⟩

/-- A depth field, with its reserved value refused (30_encoding.md R90 (c)). -/
def withDepth (code : Nat) (row : Depth → Except DecodeError Instr) : Except DecodeError Instr :=
  match depthOfCode code with
  | none => .error .reservedDepth
  | some d => row d

/-- The words of format V (30_encoding.md R85). -/
def viewArgsOf (cmd : Command) : ViewArgs := ⟨operand cmd 1, operand cmd 2, operand cmd 3, operand cmd 4, rasterSizeAt cmd 5 6 7⟩

/-- The words of format B (30_encoding.md R86). -/
def blitArgsOf (cmd : Command) : BlitArgs :=
  ⟨operand cmd 1, operand cmd 2, operand cmd 3, operand cmd 4, operand cmd 5, operand cmd 6, operand cmd 7, operand cmd 8, operand cmd 9,
    operand cmd 10, operand cmd 11, operand cmd 12⟩

/-- The words of format Q (30_encoding.md R87). -/
def quadArgsOf (cmd : Command) : QuadArgs := ⟨operand cmd 1, operand cmd 2, operand cmd 3, operand cmd 4, operand cmd 5⟩

/-- The decoder (30_encoding.md R80 to R91): the opcode map of R88, the formats of R82 to R87, the illegal commands of
R90. -/
def decode (cmd : Command) : Except DecodeError Instr :=
  let op := field cmd[0] 7 0
  if op = 0x01 then mustBeZero geomUnused 1 cmd (.ok (.geom (fmtField cmd)))
  else if op = 0x02 then mustBeZero descUnused 4 cmd (.ok (.desc (fmtField cmd) (flag cmd[0] 21) (rasterSizeAt cmd 1 2 3)))
  else if op = 0x10 then decodeLine unpackOfCode cmd
  else if op = 0x11 then decodeLine packOfCode cmd
  else if op = 0x20 then
    mustBeZero y2rUnused 6 cmd (withDepth (field cmd[0] 27 26) fun dep =>
      .ok (.cscY2R (flag cmd[0] 22) (flag cmd[0] 23) (flag cmd[0] 24) (flag cmd[0] 25) dep (linePairOf cmd)))
  else if op = 0x21 then
    mustBeZero r2yUnused 6 cmd (withDepth (field cmd[0] 27 26) fun dep =>
      .ok (.cscR2Y (flag cmd[0] 22) (flag cmd[0] 23) (flag cmd[0] 25) dep (linePairOf cmd)))
  else if op = 0x22 then
    mustBeZero rdepthUnused 6 cmd (withDepth (field cmd[0] 27 26) fun dep => withDepth (field cmd[0] 29 28) fun dep2 =>
      .ok (.cscRDepth (flag cmd[0] 25) dep dep2 (linePairOf cmd)))
  else if op = 0x30 then mustBeZero viewUnused 8 cmd (.ok (.view (fmtField cmd) (flag cmd[0] 21) (viewArgsOf cmd)))
  else if op = 0x31 then mustBeZero viewUnused 8 cmd (.ok (.cmpv (fmtField cmd) (flag cmd[0] 21) (viewArgsOf cmd)))
  else if op = 0x40 then mustBeZero blitUnused 13 cmd (.ok (.blit (fmtField cmd) (blitArgsOf cmd)))
  else if op = 0x41 then mustBeZero quadUnused 6 cmd (.ok (.qsplit (quadrantOfCode (field cmd[0] 31 30)) (quadArgsOf cmd)))
  else if op = 0x42 then mustBeZero quadUnused 6 cmd (.ok (.qmerge (quadrantOfCode (field cmd[0] 31 30)) (quadArgsOf cmd)))
  else .error .unknownOpcode

/-! ## The encoder -/

/-- Sixteen words from sixteen naturals. -/
def commandOfNats (w0 w1 w2 w3 w4 w5 w6 w7 w8 w9 w10 w11 w12 w13 w14 w15 : Nat) : Command :=
  #v[.ofNat 32 w0, .ofNat 32 w1, .ofNat 32 w2, .ofNat 32 w3, .ofNat 32 w4, .ofNat 32 w5, .ofNat 32 w6, .ofNat 32 w7,
    .ofNat 32 w8, .ofNat 32 w9, .ofNat 32 w10, .ofNat 32 w11, .ofNat 32 w12, .ofNat 32 w13, .ofNat 32 w14,
    .ofNat 32 w15]

/-- A flag at a bit of `CMD[0]`. -/
def atBit (b : Bool) (n : Nat) : Nat := b.toNat * 2 ^ n

/-- Format L, both forms (30_encoding.md R83). -/
def encodeLine (op code : Nat) (a : LineArgs) : Command :=
  match a.desc with
  | none =>
    commandOfNats (op + code * 2 ^ 8) a.packedAddr a.packedLen a.compAddr a.compLen a.pixelCount 0 0 0 0 0 0 0 0 0 0
  | some d =>
    commandOfNats (op + code * 2 ^ 8 + formatCode d.dfmt * 2 ^ 14 + 2 ^ 20 + atBit d.vm 21) a.packedAddr a.packedLen
      a.compAddr a.compLen a.pixelCount d.size.width d.size.activeHeight d.size.vancLines 0 0 0 0 0 0 0

/-- Format C (30_encoding.md R84). -/
def encodeLinePair (w0 : Nat) (b : LinePair) : Command :=
  commandOfNats w0 b.srcAddr b.srcLen b.dstAddr b.dstLen b.pixelCount 0 0 0 0 0 0 0 0 0 0

/-- Format V (30_encoding.md R85). -/
def encodeView (op : Nat) (fmt : PixelFormat) (vm : Bool) (v : ViewArgs) : Command :=
  commandOfNats (op + formatCode fmt * 2 ^ 8 + atBit vm 21) v.aAddr v.aLen v.bAddr v.bLen v.size.width
    v.size.activeHeight v.size.vancLines 0 0 0 0 0 0 0 0

/-- Format Q (30_encoding.md R87). -/
def encodeQuad (op : Nat) (q : Quadrant) (a : QuadArgs) : Command :=
  commandOfNats (op + quadrantCode q * 2 ^ 30) a.fullAddr a.fullPitch a.fullHeight a.quadAddr a.quad13Offset 0 0 0 0 0 0
    0 0 0 0

/-- The encoder: the words of a well-formed command (30_encoding.md R81 to R88). -/
def encode (i : Instr) : Command :=
  match i with
  | .geom fmt => commandOfNats (0x01 + formatCode fmt * 2 ^ 8) 0 0 0 0 0 0 0 0 0 0 0 0 0 0 0
  | .desc fmt vm r =>
    commandOfNats (0x02 + formatCode fmt * 2 ^ 8 + atBit vm 21) r.width r.activeHeight r.vancLines 0 0 0 0 0 0 0 0 0 0 0 0
  | .unpackY10P a => encodeLine 0x10 0 a
  | .unpackY10P_BE a => encodeLine 0x10 1 a
  | .unpackY8P a => encodeLine 0x10 2 a
  | .unpackRGB24 a => encodeLine 0x10 3 a
  | .unpackRGBA32 a => encodeLine 0x10 4 a
  | .unpackRGB48 a => encodeLine 0x10 5 a
  | .unpackRGB10P a => encodeLine 0x10 6 a
  | .unpackRGB10P_BE a => encodeLine 0x10 7 a
  | .unpackRGB12P a => encodeLine 0x10 8 a
  | .unpackY10_420_PL2 a => encodeLine 0x10 9 a
  | .unpackY8_422_PL3 a => encodeLine 0x10 10 a
  | .unpackY8_420_PL3 a => encodeLine 0x10 11 a
  | .unpackCOMPRESSED a => encodeLine 0x10 12 a
  | .unpack13 a => encodeLine 0x10 13 a
  | .unpack14 a => encodeLine 0x10 14 a
  | .unpack15 a => encodeLine 0x10 15 a
  | .unpack16 a => encodeLine 0x10 16 a
  | .unpack17 a => encodeLine 0x10 17 a
  | .unpack18 a => encodeLine 0x10 18 a
  | .unpack19 a => encodeLine 0x10 19 a
  | .unpack20 a => encodeLine 0x10 20 a
  | .unpack21 a => encodeLine 0x10 21 a
  | .unpack22 a => encodeLine 0x10 22 a
  | .unpack23 a => encodeLine 0x10 23 a
  | .unpack24 a => encodeLine 0x10 24 a
  | .unpack25 a => encodeLine 0x10 25 a
  | .unpack26 a => encodeLine 0x10 26 a
  | .unpack27 a => encodeLine 0x10 27 a
  | .unpack28 a => encodeLine 0x10 28 a
  | .unpack29 a => encodeLine 0x10 29 a
  | .unpack30 a => encodeLine 0x10 30 a
  | .unpack31 a => encodeLine 0x10 31 a
  | .unpack32 a => encodeLine 0x10 32 a
  | .unpack33 a => encodeLine 0x10 33 a
  | .unpack34 a => encodeLine 0x10 34 a
  | .unpack35 a => encodeLine 0x10 35 a
  | .unpack36 a => encodeLine 0x10 36 a
  | .unpack37 a => encodeLine 0x10 37 a
  | .unpack38 a => encodeLine 0x10 38 a
  | .unpack39 a => encodeLine 0x10 39 a
  | .unpack40 a => encodeLine 0x10 40 a
  | .unpack41 a => encodeLine 0x10 41 a
  | .unpack42 a => encodeLine 0x10 42 a
  | .unpack43 a => encodeLine 0x10 43 a
  | .unpack44 a => encodeLine 0x10 44 a
  | .unpack45 a => encodeLine 0x10 45 a
  | .unpack46 a => encodeLine 0x10 46 a
  | .unpack47 a => encodeLine 0x10 47 a
  | .unpack48 a => encodeLine 0x10 48 a
  | .unpack49 a => encodeLine 0x10 49 a
  | .unpack50 a => encodeLine 0x10 50 a
  | .unpack51 a => encodeLine 0x10 51 a
  | .unpack52 a => encodeLine 0x10 52 a
  | .unpack53 a => encodeLine 0x10 53 a
  | .unpack54 a => encodeLine 0x10 54 a
  | .unpack55 a => encodeLine 0x10 55 a
  | .unpack56 a => encodeLine 0x10 56 a
  | .unpack57 a => encodeLine 0x10 57 a
  | .unpack58 a => encodeLine 0x10 58 a
  | .unpack59 a => encodeLine 0x10 59 a
  | .unpack60 a => encodeLine 0x10 60 a
  | .unpack61 a => encodeLine 0x10 61 a
  | .unpack62 a => encodeLine 0x10 62 a
  | .unpack63 a => encodeLine 0x10 63 a
  | .packY10P a => encodeLine 0x11 0 a
  | .packY10P_BE a => encodeLine 0x11 1 a
  | .packY8P a => encodeLine 0x11 2 a
  | .packRGB24 a => encodeLine 0x11 3 a
  | .packRGBA32 a => encodeLine 0x11 4 a
  | .packRGB48 a => encodeLine 0x11 5 a
  | .packRGB10P a => encodeLine 0x11 6 a
  | .packRGB10P_BE a => encodeLine 0x11 7 a
  | .packRGB12P a => encodeLine 0x11 8 a
  | .packY10_420_PL2 a => encodeLine 0x11 9 a
  | .packY8_422_PL3 a => encodeLine 0x11 10 a
  | .packY8_420_PL3 a => encodeLine 0x11 11 a
  | .packCOMPRESSED a => encodeLine 0x11 12 a
  | .pack13 a => encodeLine 0x11 13 a
  | .pack14 a => encodeLine 0x11 14 a
  | .pack15 a => encodeLine 0x11 15 a
  | .pack16 a => encodeLine 0x11 16 a
  | .pack17 a => encodeLine 0x11 17 a
  | .pack18 a => encodeLine 0x11 18 a
  | .pack19 a => encodeLine 0x11 19 a
  | .pack20 a => encodeLine 0x11 20 a
  | .pack21 a => encodeLine 0x11 21 a
  | .pack22 a => encodeLine 0x11 22 a
  | .pack23 a => encodeLine 0x11 23 a
  | .pack24 a => encodeLine 0x11 24 a
  | .pack25 a => encodeLine 0x11 25 a
  | .pack26 a => encodeLine 0x11 26 a
  | .pack27 a => encodeLine 0x11 27 a
  | .pack28 a => encodeLine 0x11 28 a
  | .pack29 a => encodeLine 0x11 29 a
  | .pack30 a => encodeLine 0x11 30 a
  | .pack31 a => encodeLine 0x11 31 a
  | .pack32 a => encodeLine 0x11 32 a
  | .pack33 a => encodeLine 0x11 33 a
  | .pack34 a => encodeLine 0x11 34 a
  | .pack35 a => encodeLine 0x11 35 a
  | .pack36 a => encodeLine 0x11 36 a
  | .pack37 a => encodeLine 0x11 37 a
  | .pack38 a => encodeLine 0x11 38 a
  | .pack39 a => encodeLine 0x11 39 a
  | .pack40 a => encodeLine 0x11 40 a
  | .pack41 a => encodeLine 0x11 41 a
  | .pack42 a => encodeLine 0x11 42 a
  | .pack43 a => encodeLine 0x11 43 a
  | .pack44 a => encodeLine 0x11 44 a
  | .pack45 a => encodeLine 0x11 45 a
  | .pack46 a => encodeLine 0x11 46 a
  | .pack47 a => encodeLine 0x11 47 a
  | .pack48 a => encodeLine 0x11 48 a
  | .pack49 a => encodeLine 0x11 49 a
  | .pack50 a => encodeLine 0x11 50 a
  | .pack51 a => encodeLine 0x11 51 a
  | .pack52 a => encodeLine 0x11 52 a
  | .pack53 a => encodeLine 0x11 53 a
  | .pack54 a => encodeLine 0x11 54 a
  | .pack55 a => encodeLine 0x11 55 a
  | .pack56 a => encodeLine 0x11 56 a
  | .pack57 a => encodeLine 0x11 57 a
  | .pack58 a => encodeLine 0x11 58 a
  | .pack59 a => encodeLine 0x11 59 a
  | .pack60 a => encodeLine 0x11 60 a
  | .pack61 a => encodeLine 0x11 61 a
  | .pack62 a => encodeLine 0x11 62 a
  | .pack63 a => encodeLine 0x11 63 a
  | .cscY2R sd sr al a4 dep b =>
    encodeLinePair (0x20 + atBit sd 22 + atBit sr 23 + atBit al 24 + atBit a4 25 + depthCode dep * 2 ^ 26) b
  | .cscR2Y sd sr a4 dep b => encodeLinePair (0x21 + atBit sd 22 + atBit sr 23 + atBit a4 25 + depthCode dep * 2 ^ 26) b
  | .cscRDepth a4 dep dep2 b => encodeLinePair (0x22 + atBit a4 25 + depthCode dep * 2 ^ 26 + depthCode dep2 * 2 ^ 28) b
  | .view fmt vm v => encodeView 0x30 fmt vm v
  | .cmpv fmt vm v => encodeView 0x31 fmt vm v
  | .blit fmt b =>
    commandOfNats (0x40 + formatCode fmt * 2 ^ 8) b.srcAddr b.srcPitch b.srcHeight b.dstAddr b.dstPitch b.dstHeight b.srcX
      b.srcY b.rectW b.rectH b.dstX b.dstY 0 0 0
  | .qsplit q a => encodeQuad 0x41 q a
  | .qmerge q a => encodeQuad 0x42 q a

/-! ## The opcode table's words -/

/-- Word `i` of a command whose `nbits` lowest bits are those of `w` and whose other bits are zero. -/
def tableWord (nbits w i : Nat) : Word := .ofNat 32 ((w % 2 ^ nbits) >>> (32 * i))

/-- The sixteen words of such a command: bit 0 of `w` is bit 0 of `CMD[0]`, bit 32 is bit 0 of `CMD[1]`. -/
def tableCommand (nbits w : Nat) : Command :=
  #v[tableWord nbits w 0, tableWord nbits w 1, tableWord nbits w 2, tableWord nbits w 3, tableWord nbits w 4,
    tableWord nbits w 5, tableWord nbits w 6, tableWord nbits w 7, tableWord nbits w 8, tableWord nbits w 9,
    tableWord nbits w 10, tableWord nbits w 11, tableWord nbits w 12, tableWord nbits w 13, tableWord nbits w 14,
    tableWord nbits w 15]

/-- The command the decoder reads from an instruction whose bits are `w`, numbered as spec/opcode_table.json numbers
them. -/
def decodeTableWord (nbits w : Nat) : Option Instr := (decode (tableCommand nbits w)).toOption

end Sys2Proof
end

