-- ==== Sys2Proof/Machine/State.lean ====
section
/-! DEFINITION. The machine's state as plain data, its reasons to stop, and reset (10_state.md, 70_reset_and_hazards.md). -/

namespace Sys2Proof.Machine

/-- Memory: the bytes that differ from what an unlisted byte reads as, by rising address (20_memory.md R50). -/
abbrev Memory := List Host.Cell

/-- The one canonical form of a memory: addresses rise strictly and lie below 2^32 (20_memory.md R50), and no entry equals
what an unlisted address reads as. -/
abbrev Memory.wf (m : Memory) : Prop :=
  m.Pairwise (fun x y => x.1 < y.1) ∧ ∀ x ∈ m, x.1 < 2 ^ 32 ∧ x.2 ≠ Config.unlistedByte

/-- Which value an open parameter has: the default the spec gives, or another one, of which nothing is known
(00_scope.md R6). -/
inductive ParamChoice where
  | standard
  | other (n : Nat)
deriving DecidableEq, Repr

/-- The three open parameters of 00_scope.md R6, part of the start state by 70_reset_and_hazards.md R312. -/
structure Params where
  kernel : ParamChoice
  alpha : ParamChoice
  layout : ParamChoice
deriving DecidableEq, Repr

/-- A run of bytes of the address space: the `len` bytes from `base` (20_memory.md R52). -/
structure Range where
  base : Nat
  len : Nat
deriving DecidableEq, Repr

/-- What the host or the platform does while no operation is in flight (70_reset_and_hazards.md R340, R310). -/
inductive HostAction where
  /-- A write of a 32-bit value at a byte offset of the register window; at `CTRL` with `GO = 1` it runs one operation. -/
  | writeReg (offset : Nat) (value : Word)
  /-- A read at a byte offset of the register window. -/
  | readReg (offset : Nat)
  /-- A write of one byte of memory. -/
  | writeByte (addr : BitVec 32) (value : Byte)
  /-- A read of one byte of memory. -/
  | readByte (addr : BitVec 32)
  /-- The platform's reset with no operation in flight (R310). -/
  | reset
  /-- A `GO` write whose operation a reset abandons in flight (R310). -/
  | goThenReset
deriving DecidableEq, Repr

/-- The machine's state. -/
structure State where
  /-- `CMD[0..15]` (10_state.md R21). -/
  cmd : Vector Word 16
  /-- `STATUS` (10_state.md R24). -/
  status : Word
  /-- `RES[0..11]` (10_state.md R22). -/
  res : Vector Word 12
  /-- Memory (20_memory.md R50). -/
  mem : Memory
  /-- The open parameters (00_scope.md R6, 70_reset_and_hazards.md R312). Log 3. -/
  params : Params
  /-- The ranges of addresses with no memory behind them, the platform's matter (20_memory.md R59). Log 7. -/
  unbacked : List Range
  /-- The model's own: what the host will do next, in order (70_reset_and_hazards.md R340). Log 2. -/
  pending : List HostAction
  /-- The model's own: what the host has read so far, in order (70_reset_and_hazards.md R341). Log 12. -/
  seen : List Word
  /-- The model's own: how many free values have been drawn. Log 10. -/
  drawn : Nat
deriving DecidableEq, Repr

/-- Why a step stops the machine. -/
inductive Fault where
  /-- An operation whose checks passed, or a host access, would touch an address with no memory behind it; raised by
  `guarded` and by the host's byte accesses. 20_memory.md R59: it "has no defined outcome in this spec". Safe. Log 7. -/
  | unbackedMemory
deriving DecidableEq, Repr

/-- Why a step has no meaning. -/
inductive Refusal where
  /-- An instruction of the table without a meaning yet, by its mnemonic; raised by `exec`'s arm only. Safe. -/
  | notModelled (mnemonic : String)
  /-- A command whose checks passed and in which a range it writes overlaps another of its ranges; raised by `guarded`.
  20_memory.md R68: "not rejected and not defined". Safe. Log 6. -/
  | overlappingBuffers
  /-- A host access to the register window at an offset that is not a whole word's; raised by the host port. 10_state.md
  R20: "Registers are read and written as whole 32-bit words". Safe. Log 11. -/
  | partialRegisterAccess
  /-- A `PACK` whose checks passed and in which a cell is wider than its field; raised by `nextAction`, no
  instruction's meaning. 41_line_codec.md R172: "A model refuses a `PACK` whose component line breaks a `require`". Safe. Log 5. -/
  | oversizeSample
deriving DecidableEq, Repr

/-- The machine right after reset (10_state.md R29, 70_reset_and_hazards.md R310, R312): every register zero; memory as the
host left it, here with nothing listed; the parameters at the spec's defaults; all addresses backed; no host action. -/
def State.reset : State where
  cmd := .replicate 16 0
  status := 0
  res := .replicate 12 0
  mem := []
  params := ⟨.standard, .standard, .standard⟩
  unbacked := []
  pending := []
  seen := []
  drawn := 0

end Sys2Proof.Machine
end

