-- ==== Sys2Proof/Machine/Flags.lean ====
section
/-! DEFINITION. The fields of `STATUS` (10_state.md R24) and the failure codes (60_exceptions.md R281). -/

namespace Sys2Proof.Machine

/-- The failure codes (60_exceptions.md R281). -/
inductive FailCode where
  | unsupportedFormat | badBufferSize | badGeometry | nullBuffer | illegalCommand
deriving DecidableEq, Repr

/-- `ERR` of a failure (60_exceptions.md R281). -/
def failNumber (code : FailCode) : Nat :=
  match code with
  | .unsupportedFormat => 1
  | .badBufferSize => 2
  | .badGeometry => 3
  | .nullBuffer => 4
  | .illegalCommand => 15

/-- The outcome of a comparison, `STATUS.CMP` (10_state.md R24). -/
inductive Comparison where
  | notMade | equal | notEqual | unsupported
deriving DecidableEq, Repr

/-- The code of `STATUS.CMP` (10_state.md R24). -/
def comparisonCode (c : Comparison) : Nat :=
  match c with
  | .notMade => 0
  | .equal => 1
  | .notEqual => 2
  | .unsupported => 3

/-- `STATUS` from its fields: `DONE` 0, `FAIL` 1, `ERR` 7:4, `CMP` 9:8, `VALID` 10, the rest zero (10_state.md R24). -/
def statusWord (done fail : Bool) (err : Nat) (cmp : Comparison) (valid : Bool) : Word :=
  .ofNat 32 (done.toNat + fail.toNat * 2 + err * 2 ^ 4 + comparisonCode cmp * 2 ^ 8 + valid.toNat * 2 ^ 10)

/-- `STATUS` after a plain success: `DONE <- 1 ; FAIL <- 0`. -/
def statusDone : Word := statusWord true false 0 .notMade false

/-- `STATUS` after a comparison that was made (43_component_reader.md R229). -/
def statusCompared (equal : Bool) : Word := statusWord true false 0 (if equal then .equal else .notEqual) false

/-- `STATUS` after `DESC` (40_catalog_descriptor.md R129). -/
def statusDescribed (valid : Bool) : Word := statusWord true false 0 .notMade valid

/-- `STATUS` after a failure (60_exceptions.md R280): `CMP` is 0 but in the one case of 43_component_reader.md R231. -/
def statusFailed (code : FailCode) (cmp : Comparison) : Word := statusWord true true (failNumber code) cmp false

/-- The `DONE` bit. -/
def doneBit (status : Word) : Bool := flag status 0
/-- The `FAIL` bit. -/
def failBit (status : Word) : Bool := flag status 1
/-- The `ERR` field. -/
def errField (status : Word) : Nat := field status 7 4
/-- The `CMP` field. -/
def cmpField (status : Word) : Nat := field status 9 8
/-- The `VALID` bit. -/
def validBit (status : Word) : Bool := flag status 10

end Sys2Proof.Machine
end

