-- ==== Sys2Proof/Machine/Ops.lean ====
section
/-! DEFINITION. The named operations over memory and registers: the memory primitives of 00_scope.md R10, the start of an
operation, its failure (60_exceptions.md R280), its completion, and reset (70_reset_and_hazards.md R310). -/

namespace Sys2Proof.Machine

/-! ## Memory -/

/-- `Mem[a]` (00_scope.md R10). -/
def memByte (m : Memory) (a : Nat) : Byte :=
  match m with
  | [] => Config.unlistedByte
  | (k, b) :: rest => if k = a then b else memByte rest a

/-- `Mem[a] <- b`, in the canonical form. -/
def memStore (m : Memory) (a : Nat) (b : Byte) : Memory :=
  match m with
  | [] => if b = Config.unlistedByte then [] else [(a, b)]
  | (k, c) :: rest =>
    if a < k then (if b = Config.unlistedByte then (k, c) :: rest else (a, b) :: (k, c) :: rest)
    else if a = k then (if b = Config.unlistedByte then rest else (a, b) :: rest)
    else (k, c) :: memStore rest a b

/-- The bytes `bs` stored from `a` on, in ascending address order (20_memory.md R57, R61). -/
def storeBytes (m : Memory) (a : Nat) (bs : List Byte) : Memory :=
  match bs with
  | [] => m
  | b :: rest => storeBytes (memStore m a b) (a + 1) rest

/-- `MemRead(a, n)`, little-endian (00_scope.md R10). -/
def memRead (m : Memory) (a n : Nat) : Nat :=
  match n with
  | 0 => 0
  | n + 1 => (memByte m a).toNat + 2 ^ 8 * memRead m (a + 1) n

/-- `MemReadBE(a, n)` (00_scope.md R10). -/
def memReadBE (m : Memory) (a n : Nat) : Nat :=
  match n with
  | 0 => 0
  | n + 1 => (memByte m a).toNat * 2 ^ (8 * n) + memReadBE m (a + 1) n

/-- The bytes `MemWrite(a, n, v)` stores, in address order (00_scope.md R10). -/
def bytesLE (n v : Nat) : List Byte := (List.range n).map fun i => .ofNat 8 (v >>> (8 * i))

/-- The bytes `MemWriteBE(a, n, v)` stores, in address order (00_scope.md R10). -/
def bytesBE (n v : Nat) : List Byte := (List.range n).map fun i => .ofNat 8 (v >>> (8 * (n - 1 - i)))

/-- The `n` bytes from `a` on, what `MemCopy` reads (00_scope.md R10). -/
def memBytes (m : Memory) (a n : Nat) : List Byte := (List.range n).map fun i => memByte m (a + i)

/-- A 16-bit component cell as the bytes `MemWrite(a, 2, v)` stores (41_line_codec.md R152). -/
def cellBytes (v : Nat) : List Byte := bytesLE 2 v

/-- The cells of a component line as bytes (41_line_codec.md R152). -/
def cellsBytes (cells : List Nat) : List Byte := cells.flatMap cellBytes

/-! ## What an operation does -/

/-- Bytes an operation writes, in order: from an address on, ascending. -/
abbrev Run := Nat × List Byte

/-- The runs of an operation, stored in the order its rule gives them (20_memory.md R61). -/
def storeRuns (m : Memory) (runs : List Run) : Memory :=
  match runs with
  | [] => m
  | r :: rest => storeRuns (storeBytes m r.1 r.2) rest

/-- The first `n` byte writes of some runs (70_reset_and_hazards.md R310: "some prefix of the rule's writes in the rule's
order"). -/
def firstWrites (n : Nat) (runs : List Run) : List Run :=
  match runs with
  | [] => []
  | r :: rest => (r.1, r.2.take n) :: firstWrites (n - r.2.length) rest

/-- What an operation's rule comes to, given the command and the state at the `GO` write. -/
inductive Effect where
  /-- It ends with this `STATUS`, these `RES`, these writes, and so many free values drawn. -/
  | done (status : Word) (res : Vector Word 12) (runs : List Run) (draws : Nat)
  /-- It executes `raise Fail(code)` (00_scope.md R11). -/
  | failed (code : FailCode) (cmp : Comparison)
  /-- It would touch memory that is not there. -/
  | faulted (f : Fault)
  /-- It is outside the premises of 60_exceptions.md R286. -/
  | outside (r : Refusal)
deriving DecidableEq, Repr

/-- Twelve result words of zero (10_state.md R22). -/
def noResults : Vector Word 12 := .replicate 12 0

/-- `RES[0..]` from naturals, the rest zero (10_state.md R22). -/
def resultsOf (vs : List Nat) : Vector Word 12 :=
  #v[.ofNat 32 (vs.getD 0 0), .ofNat 32 (vs.getD 1 0), .ofNat 32 (vs.getD 2 0), .ofNat 32 (vs.getD 3 0),
    .ofNat 32 (vs.getD 4 0), .ofNat 32 (vs.getD 5 0), .ofNat 32 (vs.getD 6 0), .ofNat 32 (vs.getD 7 0),
    .ofNat 32 (vs.getD 8 0), .ofNat 32 (vs.getD 9 0), .ofNat 32 (vs.getD 10 0), .ofNat 32 (vs.getD 11 0)]

/-- The start of every operation: `STATUS` and every `RES[i]` cleared (10_state.md R22, R24). -/
def startOperation (s : State) : State := { s with status := 0, res := noResults }

/-- What the engine holds after `raise Fail(code)` (60_exceptions.md R280): `STATUS`, every `RES[i]` zero, `CMD` and memory
as they were. There is no vector, no saved state and no return (R280, R284). -/
def raiseFail (code : FailCode) (cmp : Comparison) (s : State) : State :=
  { startOperation s with status := statusFailed code cmp }

/-- The end of an operation that succeeds. -/
def succeed (status : Word) (res : Vector Word 12) (runs : List Run) (draws : Nat) (s : State) : State :=
  { startOperation s with status := status, res := res, mem := storeRuns s.mem runs, drawn := s.drawn + draws }

/-- An operation run to its end (10_state.md R23, 70_reset_and_hazards.md R341). -/
def complete (e : Effect) (s : State) : Host.Outcome State Fault Refusal :=
  match e with
  | .done status res runs draws => .next (succeed status res runs draws s)
  | .failed code cmp => .next (raiseFail code cmp s)
  | .faulted f => .fault f
  | .outside r => .refused r

/-- The effect leaves bytes of memory undefined: it draws a free value. Only a `PACK` of a sample wider than its field does
(41_line_codec.md R172). Log 5. -/
def leavesUndefined (e : Effect) : Bool :=
  match e with
  | .done _ _ _ draws => draws != 0
  | .failed _ _ => false
  | .faulted _ => false
  | .outside _ => false

/-- Reset of the engine's registers (70_reset_and_hazards.md R310); memory is not changed. -/
def resetRegisters (s : State) : State :=
  { s with cmd := .replicate 16 0, status := 0, res := .replicate 12 0 }

/-- An operation that a reset abandons in flight (70_reset_and_hazards.md R310): memory holds a prefix of its writes, of a
length nobody knows, and the registers are those of reset. Log 9. -/
def abandon (e : Effect) (s : State) : Host.Outcome State Fault Refusal :=
  match e with
  | .done _ _ runs draws =>
    .next (resetRegisters
      { s with
        mem := storeRuns s.mem (firstWrites (Config.writesBeforeReset s.drawn) runs)
        drawn := s.drawn + draws + 1 })
  | .failed _ _ => .next (resetRegisters s)
  | .faulted f => .fault f
  | .outside r => .refused r

end Sys2Proof.Machine
end

