-- ==== Sys2Proof/Machine/Operands.lean ====
section
/-! DEFINITION. The one operand form of the machine, a buffer (20_memory.md R52, 30_encoding.md R95): when it fits, when two
of a command overlap (20_memory.md R68), when one lies over unbacked addresses (R59), and the null pointer (R53). -/

namespace Sys2Proof.Machine

/-- The null buffer pointer is address 0, whatever the length (20_memory.md R53). -/
abbrev isNull (addr : Nat) : Prop := addr = 0

/-- `fits(a, n, need)` (20_memory.md R52). -/
abbrev fits (addr len need : Nat) : Prop := need ≤ len ∧ addr + len ≤ 2 ^ 32

/-- Two ranges have a byte in common. -/
abbrev Range.overlaps (x y : Range) : Prop :=
  0 < x.len ∧ 0 < y.len ∧ x.base < y.base + y.len ∧ y.base < x.base + x.len

/-- A range a command writes overlaps one it reads (20_memory.md R68); a command writes at most one range. -/
abbrev writesOverRead (reads writes : List Range) : Prop := ∃ w ∈ writes, ∃ r ∈ reads, w.overlaps r

/-- Some range lies over an address with no memory behind it (20_memory.md R59). -/
abbrev touchesUnbacked (s : State) (ranges : List Range) : Prop := ∃ h ∈ s.unbacked, ∃ r ∈ ranges, r.overlaps h

/-- The premises of an operation whose checks have passed (60_exceptions.md R286): a command outside them has no step
(70_reset_and_hazards.md R341). Log 6 and log 7. -/
def guarded (s : State) (reads writes : List Range) (e : Effect) : Effect :=
  if writesOverRead reads writes then .outside .overlappingBuffers
  else if touchesUnbacked s (reads ++ writes) then .faulted .unbackedMemory
  else e

end Sys2Proof.Machine
end

