-- ==== Sys2Proof/Machine/Catalog.lean ====
section
/-! DEFINITION. The pixel format catalog and the format descriptor (40_catalog_descriptor.md), and the operations `GEOM` and
`DESC`. -/

namespace Sys2Proof.Machine

/-- FormatElementGeometry (40_catalog_descriptor.md R121). -/
structure Geometry where
  bytesPerElement : Nat
  componentsPerElement : Nat
  rasterPixelsPerElement : Nat
deriving DecidableEq, Repr

/-- The all-zero geometry of a format that is not modelled (40_catalog_descriptor.md R121). -/
def noGeometry : Geometry := ⟨0, 0, 0⟩

/-- `elementGeometry(fmt)` (40_catalog_descriptor.md R121). -/
def elementGeometry (fmt : PixelFormat) : Geometry :=
  match fmt with
  | .y10p => ⟨16, 12, 6⟩
  | .y10pBE => ⟨16, 12, 6⟩
  | .y8p => ⟨4, 4, 2⟩
  | .rgb24 => ⟨3, 3, 1⟩
  | .rgba32 => ⟨4, 4, 1⟩
  | .rgb48 => ⟨6, 3, 1⟩
  | .rgb10p => ⟨4, 4, 1⟩
  | .rgb10pBE => ⟨4, 4, 1⟩
  | .rgb12p => noGeometry
  | .y10_420pl2 => ⟨20, 16, 16⟩
  | .y8_422pl3 => ⟨4, 4, 2⟩
  | .y8_420pl3 => ⟨4, 4, 2⟩
  | .compressed => noGeometry
  | .unassigned _ => noGeometry

/-- `planeCount(fmt)`, the column "planes" of 40_catalog_descriptor.md R120. -/
def planeCount (fmt : PixelFormat) : Nat :=
  match fmt with
  | .y10p | .y10pBE | .y8p | .rgb24 | .rgba32 | .rgb48 | .rgb10p | .rgb10pBE => 1
  | .y10_420pl2 => 2
  | .y8_422pl3 | .y8_420pl3 => 3
  | .rgb12p | .compressed | .unassigned _ => 0

/-- A format whose geometry is not all-zero (40_catalog_descriptor.md R121). -/
abbrev isModelled (fmt : PixelFormat) : Prop := elementGeometry fmt ≠ noGeometry

/-! ## The descriptor -/

/-- The FormatDescriptor (40_catalog_descriptor.md R123). -/
structure Descriptor where
  rasterWidth : Nat
  fullRasterHeight : Nat
  activeHeight : Nat
  planeCount : Nat
  firstActiveLine : Nat
  pitch0 : Nat
  pitch1 : Nat
  pitch2 : Nat
  lines0 : Nat
  lines1 : Nat
  lines2 : Nat
  totalBytes : Nat
  valid : Bool
deriving DecidableEq, Repr

/-- `rowPitchBytes[0]` for a raster width (40_catalog_descriptor.md R125). -/
def rowPitch0 (fmt : PixelFormat) (w : Nat) : Nat :=
  match fmt with
  | .y10p | .y10pBE => (w + 47) / 48 * 128
  | .y8p => 2 * w
  | .rgb24 => 3 * w
  | .rgba32 | .rgb10p | .rgb10pBE => 4 * w
  | .rgb48 => 6 * w
  | .y10_420pl2 => 20 * w / 16
  | .y8_422pl3 | .y8_420pl3 => 2 * (w / 2)
  | .rgb12p | .compressed | .unassigned _ => 0

/-- `rowPitchBytes[1]` (40_catalog_descriptor.md R126). -/
def rowPitch1 (fmt : PixelFormat) (w : Nat) : Nat :=
  match fmt with
  | .y10_420pl2 => rowPitch0 fmt w
  | .y8_422pl3 | .y8_420pl3 => w / 2
  | .y10p | .y10pBE | .y8p | .rgb24 | .rgba32 | .rgb48 | .rgb10p | .rgb10pBE | .rgb12p | .compressed | .unassigned _ => 0

/-- `rowPitchBytes[2]` (40_catalog_descriptor.md R126). -/
def rowPitch2 (fmt : PixelFormat) (w : Nat) : Nat :=
  match fmt with
  | .y8_422pl3 | .y8_420pl3 => w / 2
  | .y10_420pl2 | .y10p | .y10pBE | .y8p | .rgb24 | .rgba32 | .rgb48 | .rgb10p | .rgb10pBE | .rgb12p | .compressed
  | .unassigned _ => 0

/-- `planeLines[0..2]` for a full height (40_catalog_descriptor.md R126, R128 for an unmodelled format). -/
def planeLines (fmt : PixelFormat) (h : Nat) : Nat × Nat × Nat :=
  match fmt with
  | .y10p | .y10pBE | .y8p | .rgb24 | .rgba32 | .rgb48 | .rgb10p | .rgb10pBE => (h, 0, 0)
  | .y10_420pl2 => (h, h / 2, 0)
  | .y8_422pl3 => (h, h, h)
  | .y8_420pl3 => (h, h / 2, h / 2)
  | .rgb12p | .compressed | .unassigned _ => (0, 0, 0)

/-- The two 4:2:0 formats (40_catalog_descriptor.md R120, R128). -/
def is420 (fmt : PixelFormat) : Bool :=
  match fmt with
  | .y10_420pl2 | .y8_420pl3 => true
  | .y10p | .y10pBE | .y8p | .rgb24 | .rgba32 | .rgb48 | .rgb10p | .rgb10pBE | .rgb12p | .y8_422pl3 | .compressed
  | .unassigned _ => false

/-- `fullRasterHeight` (40_catalog_descriptor.md R124). -/
def fullHeight (r : RasterSize) (vm : Bool) : Nat := if vm then r.activeHeight + r.vancLines else r.activeHeight

/-- `mkDesc(fmt, width, activeHeight, vancLines, vm)` (40_catalog_descriptor.md R123 to R128). -/
def mkDesc (fmt : PixelFormat) (r : RasterSize) (vm : Bool) : Descriptor :=
  let h := fullHeight r vm
  let p0 := rowPitch0 fmt r.width
  let p1 := rowPitch1 fmt r.width
  let p2 := rowPitch2 fmt r.width
  let lines := planeLines fmt h
  { rasterWidth := r.width
    fullRasterHeight := h
    activeHeight := r.activeHeight
    planeCount := planeCount fmt
    firstActiveLine := if vm then r.vancLines else 0
    pitch0 := p0
    pitch1 := p1
    pitch2 := p2
    lines0 := lines.1
    lines1 := lines.2.1
    lines2 := lines.2.2
    totalBytes := p0 * lines.1 + p1 * lines.2.1 + p2 * lines.2.2
    valid := decide (isModelled fmt ∧ 0 < p0 ∧ 0 < h ∧ (is420 fmt = true → h % 2 = 0)) }

/-- `planeBase[1]` (40_catalog_descriptor.md R127); `planeBase[0]` is 0. -/
def planeBase1 (d : Descriptor) : Nat := d.pitch0 * d.lines0

/-- `planeBase[2]` (40_catalog_descriptor.md R127). -/
def planeBase2 (d : Descriptor) : Nat := d.pitch0 * d.lines0 + d.pitch1 * d.lines1

/-- The numeric fields of a descriptor. -/
def descriptorFields (d : Descriptor) : List Nat :=
  [d.rasterWidth, d.fullRasterHeight, d.activeHeight, d.planeCount, d.firstActiveLine, d.pitch0, d.pitch1, d.pitch2,
    d.lines0, d.lines1, d.lines2, d.totalBytes]

/-- The result words of `DESC`, `RES[0]` to `RES[10]` (40_catalog_descriptor.md R129). -/
def descriptorResults (d : Descriptor) : List Nat :=
  [d.rasterWidth, d.fullRasterHeight, d.activeHeight, d.planeCount, d.firstActiveLine, d.pitch0, d.pitch1, d.pitch2,
    d.totalBytes, d.lines1, d.lines2]

/-! ## The operations -/

/-- `GEOM` (40_catalog_descriptor.md R122): it never fails on a format. -/
def effectGeom (fmt : PixelFormat) : Effect :=
  let g := elementGeometry fmt
  .done statusDone
    (resultsOf [g.bytesPerElement, g.componentsPerElement, g.rasterPixelsPerElement, planeCount fmt]) [] 0

/-- `GEOM`. -/
def execGeom (fmt : PixelFormat) (s : State) : Host.Outcome State Fault Refusal := complete (effectGeom fmt) s

/-- `DESC` (40_catalog_descriptor.md R129): an invalid descriptor is a result, a field of 2^32 or more a failure. -/
def effectDesc (fmt : PixelFormat) (vm : Bool) (r : RasterSize) : Effect :=
  let d := mkDesc fmt r vm
  if ∃ v ∈ descriptorFields d, 2 ^ 32 ≤ v then .failed .badGeometry .notMade
  else .done (statusDescribed d.valid) (resultsOf (descriptorResults d)) [] 0

/-- `DESC`. -/
def execDesc (fmt : PixelFormat) (vm : Bool) (r : RasterSize) (s : State) : Host.Outcome State Fault Refusal :=
  complete (effectDesc fmt vm r) s

end Sys2Proof.Machine
end

