-- ==== Sys2Proof/Machine/LineCodec.lean ====
section
/-! DEFINITION. The line codec's shared part (41_line_codec.md R150 to R152, R172): its checks, what one group of each format
unpacks to and packs to, and the loop over whole groups in each direction. The rows are in Unpack.lean and Pack.lean. -/

namespace Sys2Proof.Machine

/-- The formats with a line-codec path, codes 0 to 7 and 9 (41_line_codec.md R150, R151). -/
def hasLineCodec (fmt : PixelFormat) : Bool :=
  match fmt with
  | .y10p | .y10pBE | .y8p | .rgb24 | .rgba32 | .rgb48 | .rgb10p | .rgb10pBE | .y10_420pl2 => true
  | .rgb12p | .y8_422pl3 | .y8_420pl3 | .compressed | .unassigned _ => false

/-- A supplied descriptor is valid and names the format of the command; without one there is nothing to check
(41_line_codec.md R151). -/
def descriptorAgrees (fmt : PixelFormat) (desc : Option LineDescriptor) : Bool :=
  match desc with
  | none => true
  | some d => (mkDesc d.dfmt d.size d.vm).valid && decide (d.dfmt = fmt)

/-- The number of whole groups processed (41_line_codec.md R150). -/
def groupCount (fmt : PixelFormat) (a : LineArgs) : Nat := a.pixelCount / (elementGeometry fmt).rasterPixelsPerElement

/-- The packed bytes of the whole groups. -/
def packedBytes (fmt : PixelFormat) (a : LineArgs) : Nat := groupCount fmt a * (elementGeometry fmt).bytesPerElement

/-- The bytes of the component cells of the whole groups. -/
def compBytes (fmt : PixelFormat) (a : LineArgs) : Nat := 2 * groupCount fmt a * (elementGeometry fmt).componentsPerElement

/-- `lineChecks` (41_line_codec.md R151): the first failing check fixes the code. -/
def lineFailure (fmt : PixelFormat) (a : LineArgs) : Option FailCode :=
  if isNull a.packedAddr ∨ isNull a.compAddr then some .badBufferSize
  else if hasLineCodec fmt = false then some .unsupportedFormat
  else if a.pixelCount < (elementGeometry fmt).rasterPixelsPerElement then some .badBufferSize
  else if descriptorAgrees fmt a.desc = false then some .badBufferSize
  else if ¬ fits a.packedAddr a.packedLen (packedBytes fmt a) then some .badBufferSize
  else if ¬ fits a.compAddr a.compLen (compBytes fmt a) then some .badBufferSize
  else none

/-! ## One group of each format -/

/-- Field `[lo + width - 1 : lo]` of a number, by shift and mask as the rules write it. -/
def bitsAt (v lo width : Nat) : Nat := v >>> lo &&& (2 ^ width - 1)

/-- How a 32-bit word of a packed format is read; big-endian is the one byte swap "at read time" (20_memory.md R55). -/
abbrev WordReader := Memory → Nat → Nat

/-- `MemRead(a, 4)` (20_memory.md R54). -/
def readWordLE : WordReader := fun m a => memRead m a 4
/-- `MemReadBE(a, 4)` (20_memory.md R55). -/
def readWordBE : WordReader := fun m a => memReadBE m a 4

/-- A group of `Y10P` or `Y10P_BE`: three ten-bit fields of each of four words (41_line_codec.md R153, R155). -/
def groupY10P (word : WordReader) (m : Memory) (base : Nat) : List Nat :=
  (List.range 4).flatMap fun i => (List.range 3).map fun j => bitsAt (word m (base + 4 * i)) (10 * j) 10

/-- A group of `n` bytes, each a component (41_line_codec.md R157, R159, R161). -/
def groupBytes (n : Nat) (m : Memory) (base : Nat) : List Nat := (List.range n).map fun j => memRead m (base + j) 1

/-- A group of `RGB48`: three 16-bit samples (41_line_codec.md R163). -/
def groupRGB48 (m : Memory) (base : Nat) : List Nat := (List.range 3).map fun j => memRead m (base + 2 * j) 2

/-- A group of `RGB10P` or `RGB10P_BE`: R, G, B, A of one word (41_line_codec.md R165, R167). -/
def groupRGB10P (word : WordReader) (m : Memory) (base : Nat) : List Nat :=
  let w := word m base
  [bitsAt w 22 10, bitsAt w 12 10, bitsAt w 2 10, bitsAt w 0 2]

/-- The permutation of the 160 bits' values that takes a layout to the default one. Log 4. -/
def layoutPerm (choice : ParamChoice) : Equiv.Perm (BitVec 160) :=
  match choice with
  | .standard => Equiv.refl _
  | .other n => Config.otherLayout n

/-- `PL2_LAYOUT.decode` of the 20 bytes at `base`: by default the least-significant-bit-first bit stream
(41_line_codec.md R169, R170). -/
def groupPL2 (layout : ParamChoice) (m : Memory) (base : Nat) : List Nat :=
  let v := (layoutPerm layout (.ofNat 160 (memRead m base 20))).toNat
  (List.range 16).map fun j => bitsAt v (10 * j) 10

/-- How a 32-bit word of a packed format is written; big-endian is the one byte swap "at write time" (20_memory.md R55). -/
abbrev WordWriter := Nat → List Byte

/-- The `require` line of a `PACK` rule: every cell of the group is at most its field's maximum (41_line_codec.md R172). -/
def cellsFit (cells maxima : List Nat) : Bool := (cells.zip maxima).all fun p => decide (p.1 ≤ p.2)

/-- A group of `Y10P` or `Y10P_BE` from its twelve cells; `none` where a cell does not fit (41_line_codec.md R154, R156). -/
def packY10P (word : WordWriter) (cells : List Nat) : Option (List Byte) :=
  if cellsFit cells (List.replicate 12 0x3FF) then
    some ((List.range 4).flatMap fun i =>
      word (cells.getD (3 * i) 0 ||| cells.getD (3 * i + 1) 0 <<< 10 ||| cells.getD (3 * i + 2) 0 <<< 20))
  else none

/-- A group of `n` components, each a byte (41_line_codec.md R158, R160, R162). -/
def packBytes (n : Nat) (cells : List Nat) : Option (List Byte) :=
  if cellsFit cells (List.replicate n 0xFF) then some (cells.flatMap (bytesLE 1)) else none

/-- A group of `RGB48`; every 16-bit cell fits (41_line_codec.md R164). -/
def packRGB48 (cells : List Nat) : Option (List Byte) := some (cells.flatMap (bytesLE 2))

/-- A group of `RGB10P` or `RGB10P_BE` from R, G, B, A (41_line_codec.md R166, R168). -/
def packRGB10P (word : WordWriter) (cells : List Nat) : Option (List Byte) :=
  if cellsFit cells [0x3FF, 0x3FF, 0x3FF, 0x3] then
    some (word (cells.getD 0 0 <<< 22 ||| cells.getD 1 0 <<< 12 ||| cells.getD 2 0 <<< 2 ||| cells.getD 3 0))
  else none

/-- The 160-bit number of sixteen samples in the default layout (41_line_codec.md R170, `encode`). -/
def joinSamples (cells : List Nat) : Nat :=
  match cells with
  | [] => 0
  | c :: rest => c ||| joinSamples rest <<< 10

/-- `PL2_LAYOUT.encode` of sixteen cells (41_line_codec.md R170, R176). -/
def packPL2 (layout : ParamChoice) (cells : List Nat) : Option (List Byte) :=
  if cellsFit cells (List.replicate 16 0x3FF) then
    some (bytesLE 20 ((layoutPerm layout).symm (.ofNat 160 (joinSamples cells))).toNat)
  else none

/-! ## The loop over whole groups -/

/-- The component cells of the whole groups of a packed line, in order (41_line_codec.md R150). -/
def unpackedCells (fmt : PixelFormat) (group : Memory → Nat → List Nat) (a : LineArgs) (m : Memory) : List Nat :=
  (List.range (groupCount fmt a)).flatMap fun k => group m (a.packedAddr + (elementGeometry fmt).bytesPerElement * k)

/-- `UNPACK.<fmt>` with the format's group (41_line_codec.md R150 to R153, R175). -/
def unpackEffect (fmt : PixelFormat) (group : Memory → Nat → List Nat) (a : LineArgs) (s : State) : Effect :=
  match lineFailure fmt a with
  | some code => .failed code .notMade
  | none =>
    guarded s [⟨a.packedAddr, packedBytes fmt a⟩] [⟨a.compAddr, compBytes fmt a⟩]
      (.done statusDone noResults [(a.compAddr, cellsBytes (unpackedCells fmt group a s.mem))] 0)

/-- The cells of group `k` of a component line (41_line_codec.md R152). -/
def cellsOfGroup (fmt : PixelFormat) (a : LineArgs) (m : Memory) (k : Nat) : List Nat :=
  let n := (elementGeometry fmt).componentsPerElement
  (List.range n).map fun j => memRead m (a.compAddr + 2 * (n * k + j)) 2

/-- The bytes of a group whose cells do not fit: undefined, so free (41_line_codec.md R172). Log 5. -/
def undefinedGroup (draw first count : Nat) : List Byte := (List.range count).map fun i => Config.undefinedByte draw (first + i)

/-- The bytes of group `k`: what the format's `PACK` rule gives, or free ones (41_line_codec.md R172). -/
def packedGroup (fmt : PixelFormat) (pack : List Nat → Option (List Byte)) (a : LineArgs) (s : State) (k : Nat) :
    List Byte :=
  let n := (elementGeometry fmt).bytesPerElement
  (pack (cellsOfGroup fmt a s.mem k)).getD (undefinedGroup s.drawn (n * k) n)

/-- Every group of a component line meets the `require` line of the format's `PACK` rule (41_line_codec.md R172). -/
def everyGroupFits (fmt : PixelFormat) (pack : List Nat → Option (List Byte)) (a : LineArgs) (m : Memory) : Bool :=
  (List.range (groupCount fmt a)).all fun k => (pack (cellsOfGroup fmt a m k)).isSome

/-- `PACK.<fmt>` with the format's group (41_line_codec.md R150 to R152, R154, R172, R175). A sample that does not fit makes
its group's bytes free and nothing else; the machine's step refuses such a `PACK` before it starts (log 5). -/
def packEffect (fmt : PixelFormat) (pack : List Nat → Option (List Byte)) (a : LineArgs) (s : State) : Effect :=
  match lineFailure fmt a with
  | some code => .failed code .notMade
  | none =>
    guarded s [⟨a.compAddr, compBytes fmt a⟩] [⟨a.packedAddr, packedBytes fmt a⟩]
      (.done statusDone noResults
        [(a.packedAddr, (List.range (groupCount fmt a)).flatMap (packedGroup fmt pack a s))]
        (if everyGroupFits fmt pack a s.mem then 0 else 1))

/-- A row whose format has no line codec: the null check, then `UnsupportedFormat` (41_line_codec.md R171). -/
def uncodedEffect (fmt : PixelFormat) (a : LineArgs) : Effect :=
  .failed ((lineFailure fmt a).getD .unsupportedFormat) .notMade

end Sys2Proof.Machine
end

