-- ==== Sys2Proof/Machine/ColorSpace.lean ====
section
/-! DEFINITION. The colour space converter (42_color_space.md): the kernel parameter and its default, depth conversion,
interpolation, alpha, and the operations `CSC.Y2R`, `CSC.R2Y`, `CSC.RDEPTH`. -/

namespace Sys2Proof.Machine

/-! ## The default kernel -/

/-- The constants of the default kernel for one profile (42_color_space.md R195). -/
structure KernelConstants where
  off : Int
  ky : Int
  krv : Int
  kbu : Int
  kgu : Int
  kgv : Int
  cyr : Int
  cyg : Int
  cyb : Int
  cur : Int
  cug : Int
  cub : Int
  cvr : Int
  cvg : Int
  cvb : Int
deriving DecidableEq, Repr

/-- The column of 42_color_space.md R195 that the profile bits select. -/
def kernelConstants (sd sr : Bool) : KernelConstants :=
  match sd, sr with
  | true, false =>
    ⟨0, 76533, 104905, 132590, 25750, 53435, 16780, 32942, 6398, 9685, 19015, 28700, 28700, 24033, 4667⟩
  | true, true =>
    ⟨64, 65536, 89831, 113538, 22050, 45757, 19595, 38470, 7471, 11311, 22205, 33516, 33516, 28066, 5451⟩
  | false, false =>
    ⟨0, 76533, 117835, 138846, 14017, 35027, 11931, 40136, 4052, 6576, 22124, 28700, 28700, 26068, 2632⟩
  | false, true =>
    ⟨64, 65536, 100902, 118894, 12002, 29994, 13933, 46871, 4732, 7680, 25836, 33516, 33516, 30443, 3073⟩

/-- `rnd16` (42_color_space.md R196): the floor of `(x + 32768) / 65536`. -/
def rnd16 (x : Int) : Int := (x + 32768) / 65536

/-- The default `y2r` (42_color_space.md R193). -/
def standardY2R (sd sr : Bool) (Y Cb Cr : Int) : Int × Int × Int :=
  let k := kernelConstants sd sr
  let y := Y - 64
  let u := Cb - 512
  let v := Cr - 512
  (k.off + rnd16 (k.ky * y + k.krv * v), k.off + rnd16 (k.ky * y - k.kgu * u - k.kgv * v),
    k.off + rnd16 (k.ky * y + k.kbu * u))

/-- The default `r2y` (42_color_space.md R194). -/
def standardR2Y (sd sr : Bool) (R G B : Int) : Int × Int × Int :=
  let k := kernelConstants sd sr
  let r := R - k.off
  let g := G - k.off
  let b := B - k.off
  (64 + rnd16 (k.cyr * r + k.cyg * g + k.cyb * b), 512 + rnd16 (-k.cur * r - k.cug * g + k.cub * b),
    512 + rnd16 (k.cvr * r - k.cvg * g - k.cvb * b))

/-- `CSC_KERNEL.y2r` (42_color_space.md R192). -/
def kernelY2R (choice : ParamChoice) : Bool → Bool → Int → Int → Int → Int × Int × Int :=
  match choice with
  | .standard => standardY2R
  | .other n => Config.otherY2R n

/-- `CSC_KERNEL.r2y` (42_color_space.md R192). -/
def kernelR2Y (choice : ParamChoice) : Bool → Bool → Int → Int → Int → Int × Int × Int :=
  match choice with
  | .standard => standardR2Y
  | .other n => Config.otherR2Y n

/-! ## Depth, storage, alpha -/

/-- The number of bits of a depth (30_encoding.md R81). -/
def depthBits (d : Depth) : Nat :=
  match d with
  | .d8 => 8
  | .d10 => 10
  | .d16 => 16

/-- `to10(v, dep)` (42_color_space.md R197). -/
def to10 (v : Nat) (dep : Depth) : Int :=
  match dep with
  | .d8 => 4 * v
  | .d10 => v
  | .d16 => ((v / 64 : Nat) : Int)

/-- `from10(x, dep)` (42_color_space.md R197); `asr(x, 2)` is the floor of `x / 4`. -/
def from10 (x : Int) (dep : Depth) : Int :=
  match dep with
  | .d8 => x / 4
  | .d10 => x
  | .d16 => 64 * x

/-- `wrap16` (00_scope.md R8, 42_color_space.md R198). -/
def wrap16 (x : Int) : Nat := (x % 65536).toNat

/-- `ALPHA_DEFAULT(depth)`, by default all ones (42_color_space.md R200). -/
def alphaDefault (choice : ParamChoice) (dep : Depth) : Nat :=
  match choice with
  | .standard => 2 ^ depthBits dep - 1
  | .other n => Config.otherAlpha n (depthBits dep)

/-- `S = 3 + A4`, the RGB cells of a pixel (42_color_space.md R191). -/
def rgbCells (a4 : Bool) : Nat := 3 + a4.toNat

/-! ## Checks -/

/-- `cscChecks(minPixels, nIn, nOut)` (42_color_space.md R204). -/
def cscFailure (minPixels nIn nOut : Nat) (b : LinePair) : Option FailCode :=
  if isNull b.srcAddr ∨ isNull b.dstAddr then some .nullBuffer
  else if b.pixelCount < minPixels then some .badBufferSize
  else if ¬ fits b.srcAddr b.srcLen nIn then some .badBufferSize
  else if ¬ fits b.dstAddr b.dstLen nOut then some .badBufferSize
  else none

/-- A converter operation: its checks, then its result cells (42_color_space.md R204 to R206). -/
def cscEffect (minPixels nIn nOut : Nat) (b : LinePair) (cells : List Nat) (s : State) : Effect :=
  match cscFailure minPixels nIn nOut b with
  | some code => .failed code .notMade
  | none =>
    guarded s [⟨b.srcAddr, nIn⟩] [⟨b.dstAddr, nOut⟩]
      (.done statusDone noResults [(b.dstAddr, cellsBytes cells)] 0)

/-- `cell(i)` of the source line (42_color_space.md R201). -/
def sourceCell (b : LinePair) (m : Memory) (i : Nat) : Nat := memRead m (b.srcAddr + 2 * i) 2

/-- `P = pixelCount / 2`, the whole pairs (42_color_space.md R191). -/
def pairCount (b : LinePair) : Nat := b.pixelCount / 2

/-! ## CSC.Y2R -/

/-- The cells of one RGB pixel from its luma and chroma (42_color_space.md R201, alpha R200). -/
def rgbPixel (p : Params) (sd sr al a4 : Bool) (dep : Depth) (y u v : Nat) : List Nat :=
  let rgb := kernelY2R p.kernel sd sr y u v
  let colour := [wrap16 (from10 rgb.1 dep), wrap16 (from10 rgb.2.1 dep), wrap16 (from10 rgb.2.2 dep)]
  let alpha := if al then y / 4 else alphaDefault p.alpha dep
  if a4 then colour ++ [wrap16 alpha] else colour

/-- The chroma of the second pixel of pair `k`: the truncating average with the next of the processed pairs, or at the
last pair its own (42_color_space.md R199). `i` is the chroma cell's place in a pair: 0 for Cb, 2 for Cr. -/
def secondChroma (b : LinePair) (m : Memory) (k i : Nat) : Nat :=
  let here := sourceCell b m (4 * k + i)
  if k + 1 < pairCount b then (here + sourceCell b m (4 * k + 4 + i)) / 2 else here

/-- The cells of the two pixels of pair `k` (42_color_space.md R199, R201). -/
def rgbPair (p : Params) (sd sr al a4 : Bool) (dep : Depth) (b : LinePair) (m : Memory) (k : Nat) : List Nat :=
  rgbPixel p sd sr al a4 dep (sourceCell b m (4 * k + 1)) (sourceCell b m (4 * k)) (sourceCell b m (4 * k + 2)) ++
    rgbPixel p sd sr al a4 dep (sourceCell b m (4 * k + 3)) (secondChroma b m k 0) (secondChroma b m k 2)

/-- `CSC.Y2R` (42_color_space.md R201). -/
def effectCscY2R (sd sr al a4 : Bool) (dep : Depth) (b : LinePair) (s : State) : Effect :=
  let pairs := pairCount b
  cscEffect 2 (8 * pairs) (4 * rgbCells a4 * pairs) b
    ((List.range pairs).flatMap (rgbPair s.params sd sr al a4 dep b s.mem)) s

/-- `CSC.Y2R`. -/
def execCscY2R (sd sr al a4 : Bool) (dep : Depth) (b : LinePair) (s : State) : Host.Outcome State Fault Refusal :=
  complete (effectCscY2R sd sr al a4 dep b s) s

/-! ## CSC.R2Y -/

/-- The kernel's result for the pixel whose cells begin at `first` (42_color_space.md R202). -/
def yccOfPixel (p : Params) (sd sr : Bool) (dep : Depth) (b : LinePair) (m : Memory) (first : Nat) : Int × Int × Int :=
  kernelR2Y p.kernel sd sr (to10 (sourceCell b m first) dep) (to10 (sourceCell b m (first + 1)) dep)
    (to10 (sourceCell b m (first + 2)) dep)

/-- The four cells Cb, Y0, Cr, Y1 of pair `k`: chroma of its first pixel, luma of both (42_color_space.md R202). -/
def yccPair (p : Params) (sd sr a4 : Bool) (dep : Depth) (b : LinePair) (m : Memory) (k : Nat) : List Nat :=
  let first := yccOfPixel p sd sr dep b m (rgbCells a4 * (2 * k))
  let second := yccOfPixel p sd sr dep b m (rgbCells a4 * (2 * k + 1))
  [wrap16 first.2.1, wrap16 first.1, wrap16 first.2.2, wrap16 second.1]

/-- `CSC.R2Y` (42_color_space.md R202). -/
def effectCscR2Y (sd sr a4 : Bool) (dep : Depth) (b : LinePair) (s : State) : Effect :=
  let pairs := pairCount b
  cscEffect 2 (4 * rgbCells a4 * pairs) (8 * pairs) b
    ((List.range pairs).flatMap (yccPair s.params sd sr a4 dep b s.mem)) s

/-- `CSC.R2Y`. -/
def execCscR2Y (sd sr a4 : Bool) (dep : Depth) (b : LinePair) (s : State) : Host.Outcome State Fault Refusal :=
  complete (effectCscR2Y sd sr a4 dep b s) s

/-! ## CSC.RDEPTH -/

/-- A cell from depth `dep2` to depth `dep` through the 10-bit scale (42_color_space.md R203). -/
def redepth (dep dep2 : Depth) (v : Nat) : Nat := wrap16 (from10 (to10 v dep2) dep)

/-- `CSC.RDEPTH` (42_color_space.md R203). -/
def effectCscRDepth (a4 : Bool) (dep dep2 : Depth) (b : LinePair) (s : State) : Effect :=
  let n := rgbCells a4 * b.pixelCount
  cscEffect 1 (2 * n) (2 * n) b ((List.range n).map fun i => redepth dep dep2 (sourceCell b s.mem i)) s

/-- `CSC.RDEPTH`. -/
def execCscRDepth (a4 : Bool) (dep dep2 : Depth) (b : LinePair) (s : State) : Host.Outcome State Fault Refusal :=
  complete (effectCscRDepth a4 dep dep2 b s) s

end Sys2Proof.Machine
end

