-- ==== Sys2Proof/Machine/Pack.lean ====
section
/-! DEFINITION. The 64 rows of `PACK` (41_line_codec.md). Nine formats have a codec; the others end with `UnsupportedFormat`
after the null check (R171). -/

namespace Sys2Proof.Machine

/-- `PACK.Y10P` (41_line_codec.md R154). -/
def effectPackY10P (a : LineArgs) (s : State) : Effect := packEffect .y10p (packY10P (bytesLE 4)) a s

/-- `PACK.Y10P`. -/
def execPackY10P (a : LineArgs) (s : State) : Host.Outcome State Fault Refusal := complete (effectPackY10P a s) s

/-- `PACK.Y10P_BE` (41_line_codec.md R156). -/
def effectPackY10P_BE (a : LineArgs) (s : State) : Effect := packEffect .y10pBE (packY10P (bytesBE 4)) a s

/-- `PACK.Y10P_BE`. -/
def execPackY10P_BE (a : LineArgs) (s : State) : Host.Outcome State Fault Refusal := complete (effectPackY10P_BE a s) s

/-- `PACK.Y8P` (41_line_codec.md R158). -/
def effectPackY8P (a : LineArgs) (s : State) : Effect := packEffect .y8p (packBytes 4) a s

/-- `PACK.Y8P`. -/
def execPackY8P (a : LineArgs) (s : State) : Host.Outcome State Fault Refusal := complete (effectPackY8P a s) s

/-- `PACK.RGB24` (41_line_codec.md R160). -/
def effectPackRGB24 (a : LineArgs) (s : State) : Effect := packEffect .rgb24 (packBytes 3) a s

/-- `PACK.RGB24`. -/
def execPackRGB24 (a : LineArgs) (s : State) : Host.Outcome State Fault Refusal := complete (effectPackRGB24 a s) s

/-- `PACK.RGBA32` (41_line_codec.md R162). -/
def effectPackRGBA32 (a : LineArgs) (s : State) : Effect := packEffect .rgba32 (packBytes 4) a s

/-- `PACK.RGBA32`. -/
def execPackRGBA32 (a : LineArgs) (s : State) : Host.Outcome State Fault Refusal := complete (effectPackRGBA32 a s) s

/-- `PACK.RGB48` (41_line_codec.md R164). -/
def effectPackRGB48 (a : LineArgs) (s : State) : Effect := packEffect .rgb48 packRGB48 a s

/-- `PACK.RGB48`. -/
def execPackRGB48 (a : LineArgs) (s : State) : Host.Outcome State Fault Refusal := complete (effectPackRGB48 a s) s

/-- `PACK.RGB10P` (41_line_codec.md R166). -/
def effectPackRGB10P (a : LineArgs) (s : State) : Effect := packEffect .rgb10p (packRGB10P (bytesLE 4)) a s

/-- `PACK.RGB10P`. -/
def execPackRGB10P (a : LineArgs) (s : State) : Host.Outcome State Fault Refusal := complete (effectPackRGB10P a s) s

/-- `PACK.RGB10P_BE` (41_line_codec.md R168). -/
def effectPackRGB10P_BE (a : LineArgs) (s : State) : Effect := packEffect .rgb10pBE (packRGB10P (bytesBE 4)) a s

/-- `PACK.RGB10P_BE`. -/
def execPackRGB10P_BE (a : LineArgs) (s : State) : Host.Outcome State Fault Refusal := complete (effectPackRGB10P_BE a s) s

/-- `PACK.RGB12P`: no line codec (41_line_codec.md R171). -/
def effectPackRGB12P (a : LineArgs) : Effect := uncodedEffect .rgb12p a

/-- `PACK.RGB12P`. -/
def execPackRGB12P (a : LineArgs) (s : State) : Host.Outcome State Fault Refusal := complete (effectPackRGB12P a) s

/-- `PACK.Y10_420_PL2` (41_line_codec.md R176). -/
def effectPackY10_420_PL2 (a : LineArgs) (s : State) : Effect := packEffect .y10_420pl2 (packPL2 s.params.layout) a s

/-- `PACK.Y10_420_PL2`. -/
def execPackY10_420_PL2 (a : LineArgs) (s : State) : Host.Outcome State Fault Refusal := complete (effectPackY10_420_PL2 a s) s

/-- `PACK.Y8_422_PL3`: no line codec (41_line_codec.md R171). -/
def effectPackY8_422_PL3 (a : LineArgs) : Effect := uncodedEffect .y8_422pl3 a

/-- `PACK.Y8_422_PL3`. -/
def execPackY8_422_PL3 (a : LineArgs) (s : State) : Host.Outcome State Fault Refusal := complete (effectPackY8_422_PL3 a) s

/-- `PACK.Y8_420_PL3`: no line codec (41_line_codec.md R171). -/
def effectPackY8_420_PL3 (a : LineArgs) : Effect := uncodedEffect .y8_420pl3 a

/-- `PACK.Y8_420_PL3`. -/
def execPackY8_420_PL3 (a : LineArgs) (s : State) : Host.Outcome State Fault Refusal := complete (effectPackY8_420_PL3 a) s

/-- `PACK.COMPRESSED`: no line codec (41_line_codec.md R171). -/
def effectPackCOMPRESSED (a : LineArgs) : Effect := uncodedEffect .compressed a

/-- `PACK.COMPRESSED`. -/
def execPackCOMPRESSED (a : LineArgs) (s : State) : Host.Outcome State Fault Refusal := complete (effectPackCOMPRESSED a) s

/-- `PACK.13`: no line codec (41_line_codec.md R171). -/
def effectPack13 (a : LineArgs) : Effect := uncodedEffect (.unassigned 13) a

/-- `PACK.13`. -/
def execPack13 (a : LineArgs) (s : State) : Host.Outcome State Fault Refusal := complete (effectPack13 a) s

/-- `PACK.14`: no line codec (41_line_codec.md R171). -/
def effectPack14 (a : LineArgs) : Effect := uncodedEffect (.unassigned 14) a

/-- `PACK.14`. -/
def execPack14 (a : LineArgs) (s : State) : Host.Outcome State Fault Refusal := complete (effectPack14 a) s

/-- `PACK.15`: no line codec (41_line_codec.md R171). -/
def effectPack15 (a : LineArgs) : Effect := uncodedEffect (.unassigned 15) a

/-- `PACK.15`. -/
def execPack15 (a : LineArgs) (s : State) : Host.Outcome State Fault Refusal := complete (effectPack15 a) s

/-- `PACK.16`: no line codec (41_line_codec.md R171). -/
def effectPack16 (a : LineArgs) : Effect := uncodedEffect (.unassigned 16) a

/-- `PACK.16`. -/
def execPack16 (a : LineArgs) (s : State) : Host.Outcome State Fault Refusal := complete (effectPack16 a) s

/-- `PACK.17`: no line codec (41_line_codec.md R171). -/
def effectPack17 (a : LineArgs) : Effect := uncodedEffect (.unassigned 17) a

/-- `PACK.17`. -/
def execPack17 (a : LineArgs) (s : State) : Host.Outcome State Fault Refusal := complete (effectPack17 a) s

/-- `PACK.18`: no line codec (41_line_codec.md R171). -/
def effectPack18 (a : LineArgs) : Effect := uncodedEffect (.unassigned 18) a

/-- `PACK.18`. -/
def execPack18 (a : LineArgs) (s : State) : Host.Outcome State Fault Refusal := complete (effectPack18 a) s

/-- `PACK.19`: no line codec (41_line_codec.md R171). -/
def effectPack19 (a : LineArgs) : Effect := uncodedEffect (.unassigned 19) a

/-- `PACK.19`. -/
def execPack19 (a : LineArgs) (s : State) : Host.Outcome State Fault Refusal := complete (effectPack19 a) s

/-- `PACK.20`: no line codec (41_line_codec.md R171). -/
def effectPack20 (a : LineArgs) : Effect := uncodedEffect (.unassigned 20) a

/-- `PACK.20`. -/
def execPack20 (a : LineArgs) (s : State) : Host.Outcome State Fault Refusal := complete (effectPack20 a) s

/-- `PACK.21`: no line codec (41_line_codec.md R171). -/
def effectPack21 (a : LineArgs) : Effect := uncodedEffect (.unassigned 21) a

/-- `PACK.21`. -/
def execPack21 (a : LineArgs) (s : State) : Host.Outcome State Fault Refusal := complete (effectPack21 a) s

/-- `PACK.22`: no line codec (41_line_codec.md R171). -/
def effectPack22 (a : LineArgs) : Effect := uncodedEffect (.unassigned 22) a

/-- `PACK.22`. -/
def execPack22 (a : LineArgs) (s : State) : Host.Outcome State Fault Refusal := complete (effectPack22 a) s

/-- `PACK.23`: no line codec (41_line_codec.md R171). -/
def effectPack23 (a : LineArgs) : Effect := uncodedEffect (.unassigned 23) a

/-- `PACK.23`. -/
def execPack23 (a : LineArgs) (s : State) : Host.Outcome State Fault Refusal := complete (effectPack23 a) s

/-- `PACK.24`: no line codec (41_line_codec.md R171). -/
def effectPack24 (a : LineArgs) : Effect := uncodedEffect (.unassigned 24) a

/-- `PACK.24`. -/
def execPack24 (a : LineArgs) (s : State) : Host.Outcome State Fault Refusal := complete (effectPack24 a) s

/-- `PACK.25`: no line codec (41_line_codec.md R171). -/
def effectPack25 (a : LineArgs) : Effect := uncodedEffect (.unassigned 25) a

/-- `PACK.25`. -/
def execPack25 (a : LineArgs) (s : State) : Host.Outcome State Fault Refusal := complete (effectPack25 a) s

/-- `PACK.26`: no line codec (41_line_codec.md R171). -/
def effectPack26 (a : LineArgs) : Effect := uncodedEffect (.unassigned 26) a

/-- `PACK.26`. -/
def execPack26 (a : LineArgs) (s : State) : Host.Outcome State Fault Refusal := complete (effectPack26 a) s

/-- `PACK.27`: no line codec (41_line_codec.md R171). -/
def effectPack27 (a : LineArgs) : Effect := uncodedEffect (.unassigned 27) a

/-- `PACK.27`. -/
def execPack27 (a : LineArgs) (s : State) : Host.Outcome State Fault Refusal := complete (effectPack27 a) s

/-- `PACK.28`: no line codec (41_line_codec.md R171). -/
def effectPack28 (a : LineArgs) : Effect := uncodedEffect (.unassigned 28) a

/-- `PACK.28`. -/
def execPack28 (a : LineArgs) (s : State) : Host.Outcome State Fault Refusal := complete (effectPack28 a) s

/-- `PACK.29`: no line codec (41_line_codec.md R171). -/
def effectPack29 (a : LineArgs) : Effect := uncodedEffect (.unassigned 29) a

/-- `PACK.29`. -/
def execPack29 (a : LineArgs) (s : State) : Host.Outcome State Fault Refusal := complete (effectPack29 a) s

/-- `PACK.30`: no line codec (41_line_codec.md R171). -/
def effectPack30 (a : LineArgs) : Effect := uncodedEffect (.unassigned 30) a

/-- `PACK.30`. -/
def execPack30 (a : LineArgs) (s : State) : Host.Outcome State Fault Refusal := complete (effectPack30 a) s

/-- `PACK.31`: no line codec (41_line_codec.md R171). -/
def effectPack31 (a : LineArgs) : Effect := uncodedEffect (.unassigned 31) a

/-- `PACK.31`. -/
def execPack31 (a : LineArgs) (s : State) : Host.Outcome State Fault Refusal := complete (effectPack31 a) s

/-- `PACK.32`: no line codec (41_line_codec.md R171). -/
def effectPack32 (a : LineArgs) : Effect := uncodedEffect (.unassigned 32) a

/-- `PACK.32`. -/
def execPack32 (a : LineArgs) (s : State) : Host.Outcome State Fault Refusal := complete (effectPack32 a) s

/-- `PACK.33`: no line codec (41_line_codec.md R171). -/
def effectPack33 (a : LineArgs) : Effect := uncodedEffect (.unassigned 33) a

/-- `PACK.33`. -/
def execPack33 (a : LineArgs) (s : State) : Host.Outcome State Fault Refusal := complete (effectPack33 a) s

/-- `PACK.34`: no line codec (41_line_codec.md R171). -/
def effectPack34 (a : LineArgs) : Effect := uncodedEffect (.unassigned 34) a

/-- `PACK.34`. -/
def execPack34 (a : LineArgs) (s : State) : Host.Outcome State Fault Refusal := complete (effectPack34 a) s

/-- `PACK.35`: no line codec (41_line_codec.md R171). -/
def effectPack35 (a : LineArgs) : Effect := uncodedEffect (.unassigned 35) a

/-- `PACK.35`. -/
def execPack35 (a : LineArgs) (s : State) : Host.Outcome State Fault Refusal := complete (effectPack35 a) s

/-- `PACK.36`: no line codec (41_line_codec.md R171). -/
def effectPack36 (a : LineArgs) : Effect := uncodedEffect (.unassigned 36) a

/-- `PACK.36`. -/
def execPack36 (a : LineArgs) (s : State) : Host.Outcome State Fault Refusal := complete (effectPack36 a) s

/-- `PACK.37`: no line codec (41_line_codec.md R171). -/
def effectPack37 (a : LineArgs) : Effect := uncodedEffect (.unassigned 37) a

/-- `PACK.37`. -/
def execPack37 (a : LineArgs) (s : State) : Host.Outcome State Fault Refusal := complete (effectPack37 a) s

/-- `PACK.38`: no line codec (41_line_codec.md R171). -/
def effectPack38 (a : LineArgs) : Effect := uncodedEffect (.unassigned 38) a

/-- `PACK.38`. -/
def execPack38 (a : LineArgs) (s : State) : Host.Outcome State Fault Refusal := complete (effectPack38 a) s

/-- `PACK.39`: no line codec (41_line_codec.md R171). -/
def effectPack39 (a : LineArgs) : Effect := uncodedEffect (.unassigned 39) a

/-- `PACK.39`. -/
def execPack39 (a : LineArgs) (s : State) : Host.Outcome State Fault Refusal := complete (effectPack39 a) s

/-- `PACK.40`: no line codec (41_line_codec.md R171). -/
def effectPack40 (a : LineArgs) : Effect := uncodedEffect (.unassigned 40) a

/-- `PACK.40`. -/
def execPack40 (a : LineArgs) (s : State) : Host.Outcome State Fault Refusal := complete (effectPack40 a) s

/-- `PACK.41`: no line codec (41_line_codec.md R171). -/
def effectPack41 (a : LineArgs) : Effect := uncodedEffect (.unassigned 41) a

/-- `PACK.41`. -/
def execPack41 (a : LineArgs) (s : State) : Host.Outcome State Fault Refusal := complete (effectPack41 a) s

/-- `PACK.42`: no line codec (41_line_codec.md R171). -/
def effectPack42 (a : LineArgs) : Effect := uncodedEffect (.unassigned 42) a

/-- `PACK.42`. -/
def execPack42 (a : LineArgs) (s : State) : Host.Outcome State Fault Refusal := complete (effectPack42 a) s

/-- `PACK.43`: no line codec (41_line_codec.md R171). -/
def effectPack43 (a : LineArgs) : Effect := uncodedEffect (.unassigned 43) a

/-- `PACK.43`. -/
def execPack43 (a : LineArgs) (s : State) : Host.Outcome State Fault Refusal := complete (effectPack43 a) s

/-- `PACK.44`: no line codec (41_line_codec.md R171). -/
def effectPack44 (a : LineArgs) : Effect := uncodedEffect (.unassigned 44) a

/-- `PACK.44`. -/
def execPack44 (a : LineArgs) (s : State) : Host.Outcome State Fault Refusal := complete (effectPack44 a) s

/-- `PACK.45`: no line codec (41_line_codec.md R171). -/
def effectPack45 (a : LineArgs) : Effect := uncodedEffect (.unassigned 45) a

/-- `PACK.45`. -/
def execPack45 (a : LineArgs) (s : State) : Host.Outcome State Fault Refusal := complete (effectPack45 a) s

/-- `PACK.46`: no line codec (41_line_codec.md R171). -/
def effectPack46 (a : LineArgs) : Effect := uncodedEffect (.unassigned 46) a

/-- `PACK.46`. -/
def execPack46 (a : LineArgs) (s : State) : Host.Outcome State Fault Refusal := complete (effectPack46 a) s

/-- `PACK.47`: no line codec (41_line_codec.md R171). -/
def effectPack47 (a : LineArgs) : Effect := uncodedEffect (.unassigned 47) a

/-- `PACK.47`. -/
def execPack47 (a : LineArgs) (s : State) : Host.Outcome State Fault Refusal := complete (effectPack47 a) s

/-- `PACK.48`: no line codec (41_line_codec.md R171). -/
def effectPack48 (a : LineArgs) : Effect := uncodedEffect (.unassigned 48) a

/-- `PACK.48`. -/
def execPack48 (a : LineArgs) (s : State) : Host.Outcome State Fault Refusal := complete (effectPack48 a) s

/-- `PACK.49`: no line codec (41_line_codec.md R171). -/
def effectPack49 (a : LineArgs) : Effect := uncodedEffect (.unassigned 49) a

/-- `PACK.49`. -/
def execPack49 (a : LineArgs) (s : State) : Host.Outcome State Fault Refusal := complete (effectPack49 a) s

/-- `PACK.50`: no line codec (41_line_codec.md R171). -/
def effectPack50 (a : LineArgs) : Effect := uncodedEffect (.unassigned 50) a

/-- `PACK.50`. -/
def execPack50 (a : LineArgs) (s : State) : Host.Outcome State Fault Refusal := complete (effectPack50 a) s

/-- `PACK.51`: no line codec (41_line_codec.md R171). -/
def effectPack51 (a : LineArgs) : Effect := uncodedEffect (.unassigned 51) a

/-- `PACK.51`. -/
def execPack51 (a : LineArgs) (s : State) : Host.Outcome State Fault Refusal := complete (effectPack51 a) s

/-- `PACK.52`: no line codec (41_line_codec.md R171). -/
def effectPack52 (a : LineArgs) : Effect := uncodedEffect (.unassigned 52) a

/-- `PACK.52`. -/
def execPack52 (a : LineArgs) (s : State) : Host.Outcome State Fault Refusal := complete (effectPack52 a) s

/-- `PACK.53`: no line codec (41_line_codec.md R171). -/
def effectPack53 (a : LineArgs) : Effect := uncodedEffect (.unassigned 53) a

/-- `PACK.53`. -/
def execPack53 (a : LineArgs) (s : State) : Host.Outcome State Fault Refusal := complete (effectPack53 a) s

/-- `PACK.54`: no line codec (41_line_codec.md R171). -/
def effectPack54 (a : LineArgs) : Effect := uncodedEffect (.unassigned 54) a

/-- `PACK.54`. -/
def execPack54 (a : LineArgs) (s : State) : Host.Outcome State Fault Refusal := complete (effectPack54 a) s

/-- `PACK.55`: no line codec (41_line_codec.md R171). -/
def effectPack55 (a : LineArgs) : Effect := uncodedEffect (.unassigned 55) a

/-- `PACK.55`. -/
def execPack55 (a : LineArgs) (s : State) : Host.Outcome State Fault Refusal := complete (effectPack55 a) s

/-- `PACK.56`: no line codec (41_line_codec.md R171). -/
def effectPack56 (a : LineArgs) : Effect := uncodedEffect (.unassigned 56) a

/-- `PACK.56`. -/
def execPack56 (a : LineArgs) (s : State) : Host.Outcome State Fault Refusal := complete (effectPack56 a) s

/-- `PACK.57`: no line codec (41_line_codec.md R171). -/
def effectPack57 (a : LineArgs) : Effect := uncodedEffect (.unassigned 57) a

/-- `PACK.57`. -/
def execPack57 (a : LineArgs) (s : State) : Host.Outcome State Fault Refusal := complete (effectPack57 a) s

/-- `PACK.58`: no line codec (41_line_codec.md R171). -/
def effectPack58 (a : LineArgs) : Effect := uncodedEffect (.unassigned 58) a

/-- `PACK.58`. -/
def execPack58 (a : LineArgs) (s : State) : Host.Outcome State Fault Refusal := complete (effectPack58 a) s

/-- `PACK.59`: no line codec (41_line_codec.md R171). -/
def effectPack59 (a : LineArgs) : Effect := uncodedEffect (.unassigned 59) a

/-- `PACK.59`. -/
def execPack59 (a : LineArgs) (s : State) : Host.Outcome State Fault Refusal := complete (effectPack59 a) s

/-- `PACK.60`: no line codec (41_line_codec.md R171). -/
def effectPack60 (a : LineArgs) : Effect := uncodedEffect (.unassigned 60) a

/-- `PACK.60`. -/
def execPack60 (a : LineArgs) (s : State) : Host.Outcome State Fault Refusal := complete (effectPack60 a) s

/-- `PACK.61`: no line codec (41_line_codec.md R171). -/
def effectPack61 (a : LineArgs) : Effect := uncodedEffect (.unassigned 61) a

/-- `PACK.61`. -/
def execPack61 (a : LineArgs) (s : State) : Host.Outcome State Fault Refusal := complete (effectPack61 a) s

/-- `PACK.62`: no line codec (41_line_codec.md R171). -/
def effectPack62 (a : LineArgs) : Effect := uncodedEffect (.unassigned 62) a

/-- `PACK.62`. -/
def execPack62 (a : LineArgs) (s : State) : Host.Outcome State Fault Refusal := complete (effectPack62 a) s

/-- `PACK.63`: no line codec (41_line_codec.md R171). -/
def effectPack63 (a : LineArgs) : Effect := uncodedEffect (.unassigned 63) a

/-- `PACK.63`. -/
def execPack63 (a : LineArgs) (s : State) : Host.Outcome State Fault Refusal := complete (effectPack63 a) s

end Sys2Proof.Machine
end

