-- ==== Sys2Proof/Machine/Raster.lean ====
section
/-! DEFINITION. The raster geometry transforms (44_raster_transforms.md): `BLIT`, `QSPLIT`, `QMERGE`. They move bytes and
decode no sample. -/

namespace Sys2Proof.Machine

/-! ## BLIT -/

/-- `gran(fmt) = (gB, gP)`, where the format has a granularity (44_raster_transforms.md R251). -/
def granularity (fmt : PixelFormat) : Option (Nat × Nat) :=
  match fmt with
  | .y10p | .y10pBE => some (16, 6)
  | .y8p => some (4, 2)
  | .rgb24 => some (3, 1)
  | .rgba32 | .rgb10p | .rgb10pBE => some (4, 1)
  | .rgb48 => some (6, 1)
  | .y10_420pl2 => some (20, 16)
  | .rgb12p | .y8_422pl3 | .y8_420pl3 | .compressed | .unassigned _ => none

/-- The checks of `BLIT` after the format's, for a granularity of `gP` pixels (44_raster_transforms.md R252). -/
def blitFailure (gP : Nat) (b : BlitArgs) : Option FailCode :=
  if b.srcAddr = b.dstAddr then some .badGeometry
  else if b.srcPitch = 0 ∨ b.dstPitch = 0 ∨ b.srcHeight = 0 ∨ b.dstHeight = 0 then some .badGeometry
  else if b.srcX % gP ≠ 0 ∨ b.rectW % gP ≠ 0 ∨ b.dstX % gP ≠ 0 then some .badGeometry
  else if ¬ (b.srcAddr + b.srcPitch * b.srcHeight ≤ 2 ^ 32 ∧ b.dstAddr + b.dstPitch * b.dstHeight ≤ 2 ^ 32) then
    some .badBufferSize
  else none

/-- The clipped width in pixels (44_raster_transforms.md R253). -/
def clipWidth (gB gP : Nat) (b : BlitArgs) : Nat :=
  min b.rectW (min (b.srcPitch / gB * gP - b.srcX) (b.dstPitch / gB * gP - b.dstX))

/-- The clipped height in lines (44_raster_transforms.md R253). -/
def clipHeight (b : BlitArgs) : Nat := min b.rectH (min (b.srcHeight - b.srcY) (b.dstHeight - b.dstY))

/-- `n`, the bytes copied of each row (44_raster_transforms.md R254). -/
def blitRowBytes (gB gP : Nat) (b : BlitArgs) : Nat := clipWidth gB gP b / gP * gB

/-- Where row `r` of the copy is read (44_raster_transforms.md R254). -/
def blitSource (gB gP : Nat) (b : BlitArgs) (r : Nat) : Nat := b.srcAddr + (b.srcY + r) * b.srcPitch + b.srcX / gP * gB

/-- Where row `r` of the copy is written (44_raster_transforms.md R254). -/
def blitTarget (gB gP : Nat) (b : BlitArgs) (r : Nat) : Nat := b.dstAddr + (b.dstY + r) * b.dstPitch + b.dstX / gP * gB

/-- The rows a `BLIT` copies (44_raster_transforms.md R254). -/
def blitRuns (gB gP : Nat) (b : BlitArgs) (m : Memory) : List Run :=
  (List.range (clipHeight b)).map fun r =>
    (blitTarget gB gP b r, memBytes m (blitSource gB gP b r) (blitRowBytes gB gP b))

/-- `BLIT` (44_raster_transforms.md R252 to R255). Where the clipped rectangle is empty nothing is read or written. -/
def effectBlit (fmt : PixelFormat) (b : BlitArgs) (s : State) : Effect :=
  if isNull b.srcAddr ∨ isNull b.dstAddr then .failed .nullBuffer .notMade
  else
    match granularity fmt with
    | none => .failed .unsupportedFormat .notMade
    | some (gB, gP) =>
      match blitFailure gP b with
      | some code => .failed code .notMade
      | none =>
        let w := clipWidth gB gP b
        let h := clipHeight b
        if blitRowBytes gB gP b = 0 ∨ h = 0 then .done statusDone (resultsOf [w, h]) [] 0
        else
          guarded s [⟨b.srcAddr, b.srcPitch * b.srcHeight⟩] [⟨b.dstAddr, b.dstPitch * b.dstHeight⟩]
            (.done statusDone (resultsOf [w, h]) (blitRuns gB gP b s.mem) 0)

/-- `BLIT`. -/
def execBlit (fmt : PixelFormat) (b : BlitArgs) (s : State) : Host.Outcome State Fault Refusal :=
  complete (effectBlit fmt b s) s

/-! ## QSPLIT and QMERGE -/

/-- `qPitch` (44_raster_transforms.md R256). -/
def quadPitch (a : QuadArgs) : Nat := a.fullPitch / 2

/-- `qHeight` (44_raster_transforms.md R256). -/
def quadHeight (a : QuadArgs) : Nat := a.fullHeight / 2

/-- `origin(Q)`, a byte offset in the full raster (44_raster_transforms.md R256). -/
def quadOrigin (q : Quadrant) (a : QuadArgs) : Nat :=
  match q with
  | .upperLeft => 0
  | .upperRight => quadPitch a - a.quad13Offset
  | .lowerLeft => quadHeight a * a.fullPitch
  | .lowerRight => quadHeight a * a.fullPitch + (quadPitch a - a.quad13Offset)

/-- `quadChecks` (44_raster_transforms.md R259). -/
def quadFailure (a : QuadArgs) : Option FailCode :=
  if isNull a.fullAddr ∨ isNull a.quadAddr then some .nullBuffer
  else if a.fullAddr = a.quadAddr then some .badGeometry
  else if a.fullPitch = 0 ∨ a.fullHeight = 0 then some .badGeometry
  else if a.fullPitch % 2 ≠ 0 ∨ a.fullHeight % 2 ≠ 0 then some .badGeometry
  else if quadPitch a < a.quad13Offset then some .badGeometry
  else if ¬ (a.fullAddr + a.fullPitch * a.fullHeight ≤ 2 ^ 32 ∧ a.quadAddr + quadPitch a * quadHeight a ≤ 2 ^ 32) then
    some .badBufferSize
  else none

/-- Where row `r` of a quadrant lies in the full raster (44_raster_transforms.md R257). -/
def quadRowInFull (q : Quadrant) (a : QuadArgs) (r : Nat) : Nat := a.fullAddr + quadOrigin q a + r * a.fullPitch

/-- Where row `r` of a quadrant lies in the quadrant image (44_raster_transforms.md R257). -/
def quadRowInImage (a : QuadArgs) (r : Nat) : Nat := a.quadAddr + r * quadPitch a

/-- The extent of the full raster. -/
def fullRange (a : QuadArgs) : Range := ⟨a.fullAddr, a.fullPitch * a.fullHeight⟩

/-- The extent of the quadrant image. -/
def quadRange (a : QuadArgs) : Range := ⟨a.quadAddr, quadPitch a * quadHeight a⟩

/-- `QSPLIT` (44_raster_transforms.md R257). -/
def effectQsplit (q : Quadrant) (a : QuadArgs) (s : State) : Effect :=
  match quadFailure a with
  | some code => .failed code .notMade
  | none =>
    guarded s [fullRange a] [quadRange a]
      (.done statusDone noResults
        ((List.range (quadHeight a)).map fun r =>
          (quadRowInImage a r, memBytes s.mem (quadRowInFull q a r) (quadPitch a))) 0)

/-- `QSPLIT`. -/
def execQsplit (q : Quadrant) (a : QuadArgs) (s : State) : Host.Outcome State Fault Refusal :=
  complete (effectQsplit q a s) s

/-- `QMERGE` (44_raster_transforms.md R258). -/
def effectQmerge (q : Quadrant) (a : QuadArgs) (s : State) : Effect :=
  match quadFailure a with
  | some code => .failed code .notMade
  | none =>
    guarded s [quadRange a] [fullRange a]
      (.done statusDone noResults
        ((List.range (quadHeight a)).map fun r =>
          (quadRowInFull q a r, memBytes s.mem (quadRowInImage a r) (quadPitch a))) 0)

/-- `QMERGE`. -/
def execQmerge (q : Quadrant) (a : QuadArgs) (s : State) : Host.Outcome State Fault Refusal :=
  complete (effectQmerge q a s) s

end Sys2Proof.Machine
end

