-- ==== Sys2Proof/Machine/Reader.lean ====
section
/-! DEFINITION. The pixel component reader (43_component_reader.md): the view of a buffer, its checks, and the operations
`VIEW` and `CMPV`. -/

namespace Sys2Proof.Machine

/-- `E`, the elements of a line (43_component_reader.md R221). -/
def elementsPerLine (fmt : PixelFormat) (d : Descriptor) : Nat :=
  match fmt with
  | .y8_422pl3 | .y8_420pl3 => d.rasterWidth / 2
  | .y10_420pl2 => d.rasterWidth / 16
  | .y10p | .y10pBE | .y8p | .rgb24 | .rgba32 | .rgb48 | .rgb10p | .rgb10pBE =>
    d.pitch0 / (elementGeometry fmt).bytesPerElement
  | .rgb12p | .compressed | .unassigned _ => 0

/-- `s`, the slots of an element (43_component_reader.md R221). -/
def slotsPerElement (fmt : PixelFormat) : Nat :=
  match fmt with
  | .y10_420pl2 => 32
  | .y10p | .y10pBE | .y8p | .rgb24 | .rgba32 | .rgb48 | .rgb10p | .rgb10pBE | .rgb12p | .y8_422pl3 | .y8_420pl3
  | .compressed | .unassigned _ => (elementGeometry fmt).componentsPerElement

/-- `nSlots` (43_component_reader.md R221). -/
def slotCount (fmt : PixelFormat) (d : Descriptor) : Nat :=
  d.fullRasterHeight * elementsPerLine fmt d * slotsPerElement fmt

/-- Where element `e` of line `line` of a single-plane format starts (43_component_reader.md R222 to R224). -/
def elementBase (fmt : PixelFormat) (d : Descriptor) (addr line e : Nat) : Nat :=
  addr + line * d.pitch0 + e * (elementGeometry fmt).bytesPerElement

/-- The four slots of an element of a three-plane format, Cb, Y, Cr, Y; `chroma` is the chroma line
(43_component_reader.md R225). -/
def planarSlots (d : Descriptor) (m : Memory) (addr line chroma e : Nat) : List Nat :=
  [memRead m (addr + planeBase1 d + chroma * d.pitch1 + e) 1, memRead m (addr + line * d.pitch0 + 2 * e) 1,
    memRead m (addr + planeBase2 d + chroma * d.pitch1 + e) 1, memRead m (addr + line * d.pitch0 + 2 * e + 1) 1]

/-- The 32 slots of an element of `Y10_420_PL2`, from a luma group and a chroma group (43_component_reader.md R226). -/
def biplanarSlots (layout : ParamChoice) (d : Descriptor) (m : Memory) (addr line e : Nat) : List Nat :=
  let y := groupPL2 layout m (addr + line * d.pitch0 + 20 * e)
  let c := groupPL2 layout m (addr + d.pitch0 * d.fullRasterHeight + line / 2 * d.pitch1 + 20 * e)
  (List.range 8).flatMap fun q => [c.getD (2 * q) 0, y.getD (2 * q) 0, c.getD (2 * q + 1) 0, y.getD (2 * q + 1) 0]

/-- The slots of element `e` of line `line` of the buffer at `addr` (43_component_reader.md R222 to R226). -/
def elementSlots (p : Params) (fmt : PixelFormat) (d : Descriptor) (m : Memory) (addr line e : Nat) : List Nat :=
  match fmt with
  | .y8p => groupBytes 4 m (elementBase fmt d addr line e)
  | .rgb24 => groupBytes 3 m (elementBase fmt d addr line e)
  | .rgba32 => groupBytes 4 m (elementBase fmt d addr line e)
  | .rgb48 => groupRGB48 m (elementBase fmt d addr line e)
  | .y10p => groupY10P readWordLE m (elementBase fmt d addr line e)
  | .y10pBE => groupY10P readWordBE m (elementBase fmt d addr line e)
  | .rgb10p => groupRGB10P readWordLE m (elementBase fmt d addr line e)
  | .rgb10pBE => groupRGB10P readWordBE m (elementBase fmt d addr line e)
  | .y8_422pl3 => planarSlots d m addr line line e
  | .y8_420pl3 => planarSlots d m addr line (line / 2) e
  | .y10_420pl2 => biplanarSlots p.layout d m addr line e
  | .rgb12p | .compressed | .unassigned _ => []

/-- The view of the buffer at `addr` (43_component_reader.md R220). -/
def viewSlots (p : Params) (fmt : PixelFormat) (d : Descriptor) (m : Memory) (addr : Nat) : List Nat :=
  (List.range d.fullRasterHeight).flatMap fun line =>
    (List.range (elementsPerLine fmt d)).flatMap fun e => elementSlots p fmt d m addr line e

/-- `viewChecks(addr, len)` (43_component_reader.md R228). -/
def viewFailure (fmt : PixelFormat) (d : Descriptor) (addr len : Nat) : Option FailCode :=
  if isNull addr then some .nullBuffer
  else if ¬ isModelled fmt then some .unsupportedFormat
  else if d.valid = false then some .badGeometry
  else if d.planeCount = 1 ∧ d.pitch0 % (elementGeometry fmt).bytesPerElement ≠ 0 then some .badGeometry
  else if ¬ fits addr len d.totalBytes then some .badBufferSize
  else none

/-! ## VIEW -/

/-- The checks of `VIEW` (43_component_reader.md R227). -/
def viewOpFailure (fmt : PixelFormat) (d : Descriptor) (v : ViewArgs) : Option FailCode :=
  if isNull v.aAddr ∨ isNull v.bAddr then some .nullBuffer
  else
    match viewFailure fmt d v.aAddr v.aLen with
    | some code => some code
    | none => if ¬ fits v.bAddr v.bLen (2 * slotCount fmt d) then some .badBufferSize else none

/-- `VIEW` (43_component_reader.md R227). -/
def effectView (fmt : PixelFormat) (vm : Bool) (v : ViewArgs) (s : State) : Effect :=
  let d := mkDesc fmt v.size vm
  match viewOpFailure fmt d v with
  | some code => .failed code .notMade
  | none =>
    guarded s [⟨v.aAddr, d.totalBytes⟩] [⟨v.bAddr, 2 * slotCount fmt d⟩]
      (.done statusDone (resultsOf [slotCount fmt d])
        [(v.bAddr, cellsBytes (viewSlots s.params fmt d s.mem v.aAddr))] 0)

/-- `VIEW`. -/
def execView (fmt : PixelFormat) (vm : Bool) (v : ViewArgs) (s : State) : Host.Outcome State Fault Refusal :=
  complete (effectView fmt vm v s) s

/-! ## CMPV -/

/-- `ignored(fmt, j)`: the alpha slot of the 10-bit packed-RGB family (43_component_reader.md R230). -/
def ignoredSlot (fmt : PixelFormat) (j : Nat) : Bool :=
  match fmt with
  | .rgb10p | .rgb10pBE => decide (j = 3)
  | .y10p | .y10pBE | .y8p | .rgb24 | .rgba32 | .rgb48 | .rgb12p | .y10_420pl2 | .y8_422pl3 | .y8_420pl3 | .compressed
  | .unassigned _ => false

/-- The slots of two elements agree but for the ignored ones (43_component_reader.md R229). -/
def slotsAgree (fmt : PixelFormat) (xs ys : List Nat) : Bool :=
  (List.range (slotsPerElement fmt)).all fun j => ignoredSlot fmt j || decide (xs.getD j 0 = ys.getD j 0)

/-- The two views are equal (43_component_reader.md R229). -/
def viewsEqual (p : Params) (fmt : PixelFormat) (d : Descriptor) (m : Memory) (a b : Nat) : Bool :=
  (List.range d.fullRasterHeight).all fun line =>
    (List.range (elementsPerLine fmt d)).all fun e =>
      slotsAgree fmt (elementSlots p fmt d m a line e) (elementSlots p fmt d m b line e)

/-- `CMPV` (43_component_reader.md R229, R231). -/
def effectCmpv (fmt : PixelFormat) (vm : Bool) (v : ViewArgs) (s : State) : Effect :=
  let d := mkDesc fmt v.size vm
  if isNull v.aAddr ∨ isNull v.bAddr then .failed .nullBuffer .notMade
  else if ¬ isModelled fmt then .failed .unsupportedFormat .unsupported
  else
    match viewFailure fmt d v.aAddr v.aLen with
    | some code => .failed code .notMade
    | none =>
      match viewFailure fmt d v.bAddr v.bLen with
      | some code => .failed code .notMade
      | none =>
        guarded s [⟨v.aAddr, d.totalBytes⟩, ⟨v.bAddr, d.totalBytes⟩] []
          (.done (statusCompared (viewsEqual s.params fmt d s.mem v.aAddr v.bAddr)) noResults [] 0)

/-- `CMPV`. -/
def execCmpv (fmt : PixelFormat) (vm : Bool) (v : ViewArgs) (s : State) : Host.Outcome State Fault Refusal :=
  complete (effectCmpv fmt vm v s) s

end Sys2Proof.Machine
end

