-- ==== Sys2Proof/Machine/Unpack.lean ====
section
/-! DEFINITION. The 64 rows of `UNPACK` (41_line_codec.md). Nine formats have a codec; the others end with `UnsupportedFormat`
after the null check (R171). -/

namespace Sys2Proof.Machine

/-- `UNPACK.Y10P` (41_line_codec.md R153). -/
def effectUnpackY10P (a : LineArgs) (s : State) : Effect := unpackEffect .y10p (groupY10P readWordLE) a s

/-- `UNPACK.Y10P`. -/
def execUnpackY10P (a : LineArgs) (s : State) : Host.Outcome State Fault Refusal := complete (effectUnpackY10P a s) s

/-- `UNPACK.Y10P_BE` (41_line_codec.md R155). -/
def effectUnpackY10P_BE (a : LineArgs) (s : State) : Effect := unpackEffect .y10pBE (groupY10P readWordBE) a s

/-- `UNPACK.Y10P_BE`. -/
def execUnpackY10P_BE (a : LineArgs) (s : State) : Host.Outcome State Fault Refusal := complete (effectUnpackY10P_BE a s) s

/-- `UNPACK.Y8P` (41_line_codec.md R157). -/
def effectUnpackY8P (a : LineArgs) (s : State) : Effect := unpackEffect .y8p (groupBytes 4) a s

/-- `UNPACK.Y8P`. -/
def execUnpackY8P (a : LineArgs) (s : State) : Host.Outcome State Fault Refusal := complete (effectUnpackY8P a s) s

/-- `UNPACK.RGB24` (41_line_codec.md R159). -/
def effectUnpackRGB24 (a : LineArgs) (s : State) : Effect := unpackEffect .rgb24 (groupBytes 3) a s

/-- `UNPACK.RGB24`. -/
def execUnpackRGB24 (a : LineArgs) (s : State) : Host.Outcome State Fault Refusal := complete (effectUnpackRGB24 a s) s

/-- `UNPACK.RGBA32` (41_line_codec.md R161). -/
def effectUnpackRGBA32 (a : LineArgs) (s : State) : Effect := unpackEffect .rgba32 (groupBytes 4) a s

/-- `UNPACK.RGBA32`. -/
def execUnpackRGBA32 (a : LineArgs) (s : State) : Host.Outcome State Fault Refusal := complete (effectUnpackRGBA32 a s) s

/-- `UNPACK.RGB48` (41_line_codec.md R163). -/
def effectUnpackRGB48 (a : LineArgs) (s : State) : Effect := unpackEffect .rgb48 groupRGB48 a s

/-- `UNPACK.RGB48`. -/
def execUnpackRGB48 (a : LineArgs) (s : State) : Host.Outcome State Fault Refusal := complete (effectUnpackRGB48 a s) s

/-- `UNPACK.RGB10P` (41_line_codec.md R165). -/
def effectUnpackRGB10P (a : LineArgs) (s : State) : Effect := unpackEffect .rgb10p (groupRGB10P readWordLE) a s

/-- `UNPACK.RGB10P`. -/
def execUnpackRGB10P (a : LineArgs) (s : State) : Host.Outcome State Fault Refusal := complete (effectUnpackRGB10P a s) s

/-- `UNPACK.RGB10P_BE` (41_line_codec.md R167). -/
def effectUnpackRGB10P_BE (a : LineArgs) (s : State) : Effect := unpackEffect .rgb10pBE (groupRGB10P readWordBE) a s

/-- `UNPACK.RGB10P_BE`. -/
def execUnpackRGB10P_BE (a : LineArgs) (s : State) : Host.Outcome State Fault Refusal := complete (effectUnpackRGB10P_BE a s) s

/-- `UNPACK.RGB12P`: no line codec (41_line_codec.md R171). -/
def effectUnpackRGB12P (a : LineArgs) : Effect := uncodedEffect .rgb12p a

/-- `UNPACK.RGB12P`. -/
def execUnpackRGB12P (a : LineArgs) (s : State) : Host.Outcome State Fault Refusal := complete (effectUnpackRGB12P a) s

/-- `UNPACK.Y10_420_PL2` (41_line_codec.md R169). -/
def effectUnpackY10_420_PL2 (a : LineArgs) (s : State) : Effect := unpackEffect .y10_420pl2 (groupPL2 s.params.layout) a s

/-- `UNPACK.Y10_420_PL2`. -/
def execUnpackY10_420_PL2 (a : LineArgs) (s : State) : Host.Outcome State Fault Refusal := complete (effectUnpackY10_420_PL2 a s) s

/-- `UNPACK.Y8_422_PL3`: no line codec (41_line_codec.md R171). -/
def effectUnpackY8_422_PL3 (a : LineArgs) : Effect := uncodedEffect .y8_422pl3 a

/-- `UNPACK.Y8_422_PL3`. -/
def execUnpackY8_422_PL3 (a : LineArgs) (s : State) : Host.Outcome State Fault Refusal := complete (effectUnpackY8_422_PL3 a) s

/-- `UNPACK.Y8_420_PL3`: no line codec (41_line_codec.md R171). -/
def effectUnpackY8_420_PL3 (a : LineArgs) : Effect := uncodedEffect .y8_420pl3 a

/-- `UNPACK.Y8_420_PL3`. -/
def execUnpackY8_420_PL3 (a : LineArgs) (s : State) : Host.Outcome State Fault Refusal := complete (effectUnpackY8_420_PL3 a) s

/-- `UNPACK.COMPRESSED`: no line codec (41_line_codec.md R171). -/
def effectUnpackCOMPRESSED (a : LineArgs) : Effect := uncodedEffect .compressed a

/-- `UNPACK.COMPRESSED`. -/
def execUnpackCOMPRESSED (a : LineArgs) (s : State) : Host.Outcome State Fault Refusal := complete (effectUnpackCOMPRESSED a) s

/-- `UNPACK.13`: no line codec (41_line_codec.md R171). -/
def effectUnpack13 (a : LineArgs) : Effect := uncodedEffect (.unassigned 13) a

/-- `UNPACK.13`. -/
def execUnpack13 (a : LineArgs) (s : State) : Host.Outcome State Fault Refusal := complete (effectUnpack13 a) s

/-- `UNPACK.14`: no line codec (41_line_codec.md R171). -/
def effectUnpack14 (a : LineArgs) : Effect := uncodedEffect (.unassigned 14) a

/-- `UNPACK.14`. -/
def execUnpack14 (a : LineArgs) (s : State) : Host.Outcome State Fault Refusal := complete (effectUnpack14 a) s

/-- `UNPACK.15`: no line codec (41_line_codec.md R171). -/
def effectUnpack15 (a : LineArgs) : Effect := uncodedEffect (.unassigned 15) a

/-- `UNPACK.15`. -/
def execUnpack15 (a : LineArgs) (s : State) : Host.Outcome State Fault Refusal := complete (effectUnpack15 a) s

/-- `UNPACK.16`: no line codec (41_line_codec.md R171). -/
def effectUnpack16 (a : LineArgs) : Effect := uncodedEffect (.unassigned 16) a

/-- `UNPACK.16`. -/
def execUnpack16 (a : LineArgs) (s : State) : Host.Outcome State Fault Refusal := complete (effectUnpack16 a) s

/-- `UNPACK.17`: no line codec (41_line_codec.md R171). -/
def effectUnpack17 (a : LineArgs) : Effect := uncodedEffect (.unassigned 17) a

/-- `UNPACK.17`. -/
def execUnpack17 (a : LineArgs) (s : State) : Host.Outcome State Fault Refusal := complete (effectUnpack17 a) s

/-- `UNPACK.18`: no line codec (41_line_codec.md R171). -/
def effectUnpack18 (a : LineArgs) : Effect := uncodedEffect (.unassigned 18) a

/-- `UNPACK.18`. -/
def execUnpack18 (a : LineArgs) (s : State) : Host.Outcome State Fault Refusal := complete (effectUnpack18 a) s

/-- `UNPACK.19`: no line codec (41_line_codec.md R171). -/
def effectUnpack19 (a : LineArgs) : Effect := uncodedEffect (.unassigned 19) a

/-- `UNPACK.19`. -/
def execUnpack19 (a : LineArgs) (s : State) : Host.Outcome State Fault Refusal := complete (effectUnpack19 a) s

/-- `UNPACK.20`: no line codec (41_line_codec.md R171). -/
def effectUnpack20 (a : LineArgs) : Effect := uncodedEffect (.unassigned 20) a

/-- `UNPACK.20`. -/
def execUnpack20 (a : LineArgs) (s : State) : Host.Outcome State Fault Refusal := complete (effectUnpack20 a) s

/-- `UNPACK.21`: no line codec (41_line_codec.md R171). -/
def effectUnpack21 (a : LineArgs) : Effect := uncodedEffect (.unassigned 21) a

/-- `UNPACK.21`. -/
def execUnpack21 (a : LineArgs) (s : State) : Host.Outcome State Fault Refusal := complete (effectUnpack21 a) s

/-- `UNPACK.22`: no line codec (41_line_codec.md R171). -/
def effectUnpack22 (a : LineArgs) : Effect := uncodedEffect (.unassigned 22) a

/-- `UNPACK.22`. -/
def execUnpack22 (a : LineArgs) (s : State) : Host.Outcome State Fault Refusal := complete (effectUnpack22 a) s

/-- `UNPACK.23`: no line codec (41_line_codec.md R171). -/
def effectUnpack23 (a : LineArgs) : Effect := uncodedEffect (.unassigned 23) a

/-- `UNPACK.23`. -/
def execUnpack23 (a : LineArgs) (s : State) : Host.Outcome State Fault Refusal := complete (effectUnpack23 a) s

/-- `UNPACK.24`: no line codec (41_line_codec.md R171). -/
def effectUnpack24 (a : LineArgs) : Effect := uncodedEffect (.unassigned 24) a

/-- `UNPACK.24`. -/
def execUnpack24 (a : LineArgs) (s : State) : Host.Outcome State Fault Refusal := complete (effectUnpack24 a) s

/-- `UNPACK.25`: no line codec (41_line_codec.md R171). -/
def effectUnpack25 (a : LineArgs) : Effect := uncodedEffect (.unassigned 25) a

/-- `UNPACK.25`. -/
def execUnpack25 (a : LineArgs) (s : State) : Host.Outcome State Fault Refusal := complete (effectUnpack25 a) s

/-- `UNPACK.26`: no line codec (41_line_codec.md R171). -/
def effectUnpack26 (a : LineArgs) : Effect := uncodedEffect (.unassigned 26) a

/-- `UNPACK.26`. -/
def execUnpack26 (a : LineArgs) (s : State) : Host.Outcome State Fault Refusal := complete (effectUnpack26 a) s

/-- `UNPACK.27`: no line codec (41_line_codec.md R171). -/
def effectUnpack27 (a : LineArgs) : Effect := uncodedEffect (.unassigned 27) a

/-- `UNPACK.27`. -/
def execUnpack27 (a : LineArgs) (s : State) : Host.Outcome State Fault Refusal := complete (effectUnpack27 a) s

/-- `UNPACK.28`: no line codec (41_line_codec.md R171). -/
def effectUnpack28 (a : LineArgs) : Effect := uncodedEffect (.unassigned 28) a

/-- `UNPACK.28`. -/
def execUnpack28 (a : LineArgs) (s : State) : Host.Outcome State Fault Refusal := complete (effectUnpack28 a) s

/-- `UNPACK.29`: no line codec (41_line_codec.md R171). -/
def effectUnpack29 (a : LineArgs) : Effect := uncodedEffect (.unassigned 29) a

/-- `UNPACK.29`. -/
def execUnpack29 (a : LineArgs) (s : State) : Host.Outcome State Fault Refusal := complete (effectUnpack29 a) s

/-- `UNPACK.30`: no line codec (41_line_codec.md R171). -/
def effectUnpack30 (a : LineArgs) : Effect := uncodedEffect (.unassigned 30) a

/-- `UNPACK.30`. -/
def execUnpack30 (a : LineArgs) (s : State) : Host.Outcome State Fault Refusal := complete (effectUnpack30 a) s

/-- `UNPACK.31`: no line codec (41_line_codec.md R171). -/
def effectUnpack31 (a : LineArgs) : Effect := uncodedEffect (.unassigned 31) a

/-- `UNPACK.31`. -/
def execUnpack31 (a : LineArgs) (s : State) : Host.Outcome State Fault Refusal := complete (effectUnpack31 a) s

/-- `UNPACK.32`: no line codec (41_line_codec.md R171). -/
def effectUnpack32 (a : LineArgs) : Effect := uncodedEffect (.unassigned 32) a

/-- `UNPACK.32`. -/
def execUnpack32 (a : LineArgs) (s : State) : Host.Outcome State Fault Refusal := complete (effectUnpack32 a) s

/-- `UNPACK.33`: no line codec (41_line_codec.md R171). -/
def effectUnpack33 (a : LineArgs) : Effect := uncodedEffect (.unassigned 33) a

/-- `UNPACK.33`. -/
def execUnpack33 (a : LineArgs) (s : State) : Host.Outcome State Fault Refusal := complete (effectUnpack33 a) s

/-- `UNPACK.34`: no line codec (41_line_codec.md R171). -/
def effectUnpack34 (a : LineArgs) : Effect := uncodedEffect (.unassigned 34) a

/-- `UNPACK.34`. -/
def execUnpack34 (a : LineArgs) (s : State) : Host.Outcome State Fault Refusal := complete (effectUnpack34 a) s

/-- `UNPACK.35`: no line codec (41_line_codec.md R171). -/
def effectUnpack35 (a : LineArgs) : Effect := uncodedEffect (.unassigned 35) a

/-- `UNPACK.35`. -/
def execUnpack35 (a : LineArgs) (s : State) : Host.Outcome State Fault Refusal := complete (effectUnpack35 a) s

/-- `UNPACK.36`: no line codec (41_line_codec.md R171). -/
def effectUnpack36 (a : LineArgs) : Effect := uncodedEffect (.unassigned 36) a

/-- `UNPACK.36`. -/
def execUnpack36 (a : LineArgs) (s : State) : Host.Outcome State Fault Refusal := complete (effectUnpack36 a) s

/-- `UNPACK.37`: no line codec (41_line_codec.md R171). -/
def effectUnpack37 (a : LineArgs) : Effect := uncodedEffect (.unassigned 37) a

/-- `UNPACK.37`. -/
def execUnpack37 (a : LineArgs) (s : State) : Host.Outcome State Fault Refusal := complete (effectUnpack37 a) s

/-- `UNPACK.38`: no line codec (41_line_codec.md R171). -/
def effectUnpack38 (a : LineArgs) : Effect := uncodedEffect (.unassigned 38) a

/-- `UNPACK.38`. -/
def execUnpack38 (a : LineArgs) (s : State) : Host.Outcome State Fault Refusal := complete (effectUnpack38 a) s

/-- `UNPACK.39`: no line codec (41_line_codec.md R171). -/
def effectUnpack39 (a : LineArgs) : Effect := uncodedEffect (.unassigned 39) a

/-- `UNPACK.39`. -/
def execUnpack39 (a : LineArgs) (s : State) : Host.Outcome State Fault Refusal := complete (effectUnpack39 a) s

/-- `UNPACK.40`: no line codec (41_line_codec.md R171). -/
def effectUnpack40 (a : LineArgs) : Effect := uncodedEffect (.unassigned 40) a

/-- `UNPACK.40`. -/
def execUnpack40 (a : LineArgs) (s : State) : Host.Outcome State Fault Refusal := complete (effectUnpack40 a) s

/-- `UNPACK.41`: no line codec (41_line_codec.md R171). -/
def effectUnpack41 (a : LineArgs) : Effect := uncodedEffect (.unassigned 41) a

/-- `UNPACK.41`. -/
def execUnpack41 (a : LineArgs) (s : State) : Host.Outcome State Fault Refusal := complete (effectUnpack41 a) s

/-- `UNPACK.42`: no line codec (41_line_codec.md R171). -/
def effectUnpack42 (a : LineArgs) : Effect := uncodedEffect (.unassigned 42) a

/-- `UNPACK.42`. -/
def execUnpack42 (a : LineArgs) (s : State) : Host.Outcome State Fault Refusal := complete (effectUnpack42 a) s

/-- `UNPACK.43`: no line codec (41_line_codec.md R171). -/
def effectUnpack43 (a : LineArgs) : Effect := uncodedEffect (.unassigned 43) a

/-- `UNPACK.43`. -/
def execUnpack43 (a : LineArgs) (s : State) : Host.Outcome State Fault Refusal := complete (effectUnpack43 a) s

/-- `UNPACK.44`: no line codec (41_line_codec.md R171). -/
def effectUnpack44 (a : LineArgs) : Effect := uncodedEffect (.unassigned 44) a

/-- `UNPACK.44`. -/
def execUnpack44 (a : LineArgs) (s : State) : Host.Outcome State Fault Refusal := complete (effectUnpack44 a) s

/-- `UNPACK.45`: no line codec (41_line_codec.md R171). -/
def effectUnpack45 (a : LineArgs) : Effect := uncodedEffect (.unassigned 45) a

/-- `UNPACK.45`. -/
def execUnpack45 (a : LineArgs) (s : State) : Host.Outcome State Fault Refusal := complete (effectUnpack45 a) s

/-- `UNPACK.46`: no line codec (41_line_codec.md R171). -/
def effectUnpack46 (a : LineArgs) : Effect := uncodedEffect (.unassigned 46) a

/-- `UNPACK.46`. -/
def execUnpack46 (a : LineArgs) (s : State) : Host.Outcome State Fault Refusal := complete (effectUnpack46 a) s

/-- `UNPACK.47`: no line codec (41_line_codec.md R171). -/
def effectUnpack47 (a : LineArgs) : Effect := uncodedEffect (.unassigned 47) a

/-- `UNPACK.47`. -/
def execUnpack47 (a : LineArgs) (s : State) : Host.Outcome State Fault Refusal := complete (effectUnpack47 a) s

/-- `UNPACK.48`: no line codec (41_line_codec.md R171). -/
def effectUnpack48 (a : LineArgs) : Effect := uncodedEffect (.unassigned 48) a

/-- `UNPACK.48`. -/
def execUnpack48 (a : LineArgs) (s : State) : Host.Outcome State Fault Refusal := complete (effectUnpack48 a) s

/-- `UNPACK.49`: no line codec (41_line_codec.md R171). -/
def effectUnpack49 (a : LineArgs) : Effect := uncodedEffect (.unassigned 49) a

/-- `UNPACK.49`. -/
def execUnpack49 (a : LineArgs) (s : State) : Host.Outcome State Fault Refusal := complete (effectUnpack49 a) s

/-- `UNPACK.50`: no line codec (41_line_codec.md R171). -/
def effectUnpack50 (a : LineArgs) : Effect := uncodedEffect (.unassigned 50) a

/-- `UNPACK.50`. -/
def execUnpack50 (a : LineArgs) (s : State) : Host.Outcome State Fault Refusal := complete (effectUnpack50 a) s

/-- `UNPACK.51`: no line codec (41_line_codec.md R171). -/
def effectUnpack51 (a : LineArgs) : Effect := uncodedEffect (.unassigned 51) a

/-- `UNPACK.51`. -/
def execUnpack51 (a : LineArgs) (s : State) : Host.Outcome State Fault Refusal := complete (effectUnpack51 a) s

/-- `UNPACK.52`: no line codec (41_line_codec.md R171). -/
def effectUnpack52 (a : LineArgs) : Effect := uncodedEffect (.unassigned 52) a

/-- `UNPACK.52`. -/
def execUnpack52 (a : LineArgs) (s : State) : Host.Outcome State Fault Refusal := complete (effectUnpack52 a) s

/-- `UNPACK.53`: no line codec (41_line_codec.md R171). -/
def effectUnpack53 (a : LineArgs) : Effect := uncodedEffect (.unassigned 53) a

/-- `UNPACK.53`. -/
def execUnpack53 (a : LineArgs) (s : State) : Host.Outcome State Fault Refusal := complete (effectUnpack53 a) s

/-- `UNPACK.54`: no line codec (41_line_codec.md R171). -/
def effectUnpack54 (a : LineArgs) : Effect := uncodedEffect (.unassigned 54) a

/-- `UNPACK.54`. -/
def execUnpack54 (a : LineArgs) (s : State) : Host.Outcome State Fault Refusal := complete (effectUnpack54 a) s

/-- `UNPACK.55`: no line codec (41_line_codec.md R171). -/
def effectUnpack55 (a : LineArgs) : Effect := uncodedEffect (.unassigned 55) a

/-- `UNPACK.55`. -/
def execUnpack55 (a : LineArgs) (s : State) : Host.Outcome State Fault Refusal := complete (effectUnpack55 a) s

/-- `UNPACK.56`: no line codec (41_line_codec.md R171). -/
def effectUnpack56 (a : LineArgs) : Effect := uncodedEffect (.unassigned 56) a

/-- `UNPACK.56`. -/
def execUnpack56 (a : LineArgs) (s : State) : Host.Outcome State Fault Refusal := complete (effectUnpack56 a) s

/-- `UNPACK.57`: no line codec (41_line_codec.md R171). -/
def effectUnpack57 (a : LineArgs) : Effect := uncodedEffect (.unassigned 57) a

/-- `UNPACK.57`. -/
def execUnpack57 (a : LineArgs) (s : State) : Host.Outcome State Fault Refusal := complete (effectUnpack57 a) s

/-- `UNPACK.58`: no line codec (41_line_codec.md R171). -/
def effectUnpack58 (a : LineArgs) : Effect := uncodedEffect (.unassigned 58) a

/-- `UNPACK.58`. -/
def execUnpack58 (a : LineArgs) (s : State) : Host.Outcome State Fault Refusal := complete (effectUnpack58 a) s

/-- `UNPACK.59`: no line codec (41_line_codec.md R171). -/
def effectUnpack59 (a : LineArgs) : Effect := uncodedEffect (.unassigned 59) a

/-- `UNPACK.59`. -/
def execUnpack59 (a : LineArgs) (s : State) : Host.Outcome State Fault Refusal := complete (effectUnpack59 a) s

/-- `UNPACK.60`: no line codec (41_line_codec.md R171). -/
def effectUnpack60 (a : LineArgs) : Effect := uncodedEffect (.unassigned 60) a

/-- `UNPACK.60`. -/
def execUnpack60 (a : LineArgs) (s : State) : Host.Outcome State Fault Refusal := complete (effectUnpack60 a) s

/-- `UNPACK.61`: no line codec (41_line_codec.md R171). -/
def effectUnpack61 (a : LineArgs) : Effect := uncodedEffect (.unassigned 61) a

/-- `UNPACK.61`. -/
def execUnpack61 (a : LineArgs) (s : State) : Host.Outcome State Fault Refusal := complete (effectUnpack61 a) s

/-- `UNPACK.62`: no line codec (41_line_codec.md R171). -/
def effectUnpack62 (a : LineArgs) : Effect := uncodedEffect (.unassigned 62) a

/-- `UNPACK.62`. -/
def execUnpack62 (a : LineArgs) (s : State) : Host.Outcome State Fault Refusal := complete (effectUnpack62 a) s

/-- `UNPACK.63`: no line codec (41_line_codec.md R171). -/
def effectUnpack63 (a : LineArgs) : Effect := uncodedEffect (.unassigned 63) a

/-- `UNPACK.63`. -/
def execUnpack63 (a : LineArgs) (s : State) : Host.Outcome State Fault Refusal := complete (effectUnpack63 a) s

end Sys2Proof.Machine
end

