-- ==== Sys2Proof/Machine/Effects.lean ====
section
/-! DEFINITION. What each command comes to, as an effect: the same effects `exec`'s meanings complete, gathered so that an
operation that a reset abandons (70_reset_and_hazards.md R310) can perform a part of its writes. -/

namespace Sys2Proof.Machine

/-- The effect of a command. -/
def effectOf (i : Instr) (s : State) : Effect :=
  match i with
  | .geom fmt => effectGeom fmt
  | .desc fmt vm r => effectDesc fmt vm r
  | .unpackY10P a => effectUnpackY10P a s
  | .unpackY10P_BE a => effectUnpackY10P_BE a s
  | .unpackY8P a => effectUnpackY8P a s
  | .unpackRGB24 a => effectUnpackRGB24 a s
  | .unpackRGBA32 a => effectUnpackRGBA32 a s
  | .unpackRGB48 a => effectUnpackRGB48 a s
  | .unpackRGB10P a => effectUnpackRGB10P a s
  | .unpackRGB10P_BE a => effectUnpackRGB10P_BE a s
  | .unpackRGB12P a => effectUnpackRGB12P a
  | .unpackY10_420_PL2 a => effectUnpackY10_420_PL2 a s
  | .unpackY8_422_PL3 a => effectUnpackY8_422_PL3 a
  | .unpackY8_420_PL3 a => effectUnpackY8_420_PL3 a
  | .unpackCOMPRESSED a => effectUnpackCOMPRESSED a
  | .unpack13 a => effectUnpack13 a
  | .unpack14 a => effectUnpack14 a
  | .unpack15 a => effectUnpack15 a
  | .unpack16 a => effectUnpack16 a
  | .unpack17 a => effectUnpack17 a
  | .unpack18 a => effectUnpack18 a
  | .unpack19 a => effectUnpack19 a
  | .unpack20 a => effectUnpack20 a
  | .unpack21 a => effectUnpack21 a
  | .unpack22 a => effectUnpack22 a
  | .unpack23 a => effectUnpack23 a
  | .unpack24 a => effectUnpack24 a
  | .unpack25 a => effectUnpack25 a
  | .unpack26 a => effectUnpack26 a
  | .unpack27 a => effectUnpack27 a
  | .unpack28 a => effectUnpack28 a
  | .unpack29 a => effectUnpack29 a
  | .unpack30 a => effectUnpack30 a
  | .unpack31 a => effectUnpack31 a
  | .unpack32 a => effectUnpack32 a
  | .unpack33 a => effectUnpack33 a
  | .unpack34 a => effectUnpack34 a
  | .unpack35 a => effectUnpack35 a
  | .unpack36 a => effectUnpack36 a
  | .unpack37 a => effectUnpack37 a
  | .unpack38 a => effectUnpack38 a
  | .unpack39 a => effectUnpack39 a
  | .unpack40 a => effectUnpack40 a
  | .unpack41 a => effectUnpack41 a
  | .unpack42 a => effectUnpack42 a
  | .unpack43 a => effectUnpack43 a
  | .unpack44 a => effectUnpack44 a
  | .unpack45 a => effectUnpack45 a
  | .unpack46 a => effectUnpack46 a
  | .unpack47 a => effectUnpack47 a
  | .unpack48 a => effectUnpack48 a
  | .unpack49 a => effectUnpack49 a
  | .unpack50 a => effectUnpack50 a
  | .unpack51 a => effectUnpack51 a
  | .unpack52 a => effectUnpack52 a
  | .unpack53 a => effectUnpack53 a
  | .unpack54 a => effectUnpack54 a
  | .unpack55 a => effectUnpack55 a
  | .unpack56 a => effectUnpack56 a
  | .unpack57 a => effectUnpack57 a
  | .unpack58 a => effectUnpack58 a
  | .unpack59 a => effectUnpack59 a
  | .unpack60 a => effectUnpack60 a
  | .unpack61 a => effectUnpack61 a
  | .unpack62 a => effectUnpack62 a
  | .unpack63 a => effectUnpack63 a
  | .packY10P a => effectPackY10P a s
  | .packY10P_BE a => effectPackY10P_BE a s
  | .packY8P a => effectPackY8P a s
  | .packRGB24 a => effectPackRGB24 a s
  | .packRGBA32 a => effectPackRGBA32 a s
  | .packRGB48 a => effectPackRGB48 a s
  | .packRGB10P a => effectPackRGB10P a s
  | .packRGB10P_BE a => effectPackRGB10P_BE a s
  | .packRGB12P a => effectPackRGB12P a
  | .packY10_420_PL2 a => effectPackY10_420_PL2 a s
  | .packY8_422_PL3 a => effectPackY8_422_PL3 a
  | .packY8_420_PL3 a => effectPackY8_420_PL3 a
  | .packCOMPRESSED a => effectPackCOMPRESSED a
  | .pack13 a => effectPack13 a
  | .pack14 a => effectPack14 a
  | .pack15 a => effectPack15 a
  | .pack16 a => effectPack16 a
  | .pack17 a => effectPack17 a
  | .pack18 a => effectPack18 a
  | .pack19 a => effectPack19 a
  | .pack20 a => effectPack20 a
  | .pack21 a => effectPack21 a
  | .pack22 a => effectPack22 a
  | .pack23 a => effectPack23 a
  | .pack24 a => effectPack24 a
  | .pack25 a => effectPack25 a
  | .pack26 a => effectPack26 a
  | .pack27 a => effectPack27 a
  | .pack28 a => effectPack28 a
  | .pack29 a => effectPack29 a
  | .pack30 a => effectPack30 a
  | .pack31 a => effectPack31 a
  | .pack32 a => effectPack32 a
  | .pack33 a => effectPack33 a
  | .pack34 a => effectPack34 a
  | .pack35 a => effectPack35 a
  | .pack36 a => effectPack36 a
  | .pack37 a => effectPack37 a
  | .pack38 a => effectPack38 a
  | .pack39 a => effectPack39 a
  | .pack40 a => effectPack40 a
  | .pack41 a => effectPack41 a
  | .pack42 a => effectPack42 a
  | .pack43 a => effectPack43 a
  | .pack44 a => effectPack44 a
  | .pack45 a => effectPack45 a
  | .pack46 a => effectPack46 a
  | .pack47 a => effectPack47 a
  | .pack48 a => effectPack48 a
  | .pack49 a => effectPack49 a
  | .pack50 a => effectPack50 a
  | .pack51 a => effectPack51 a
  | .pack52 a => effectPack52 a
  | .pack53 a => effectPack53 a
  | .pack54 a => effectPack54 a
  | .pack55 a => effectPack55 a
  | .pack56 a => effectPack56 a
  | .pack57 a => effectPack57 a
  | .pack58 a => effectPack58 a
  | .pack59 a => effectPack59 a
  | .pack60 a => effectPack60 a
  | .pack61 a => effectPack61 a
  | .pack62 a => effectPack62 a
  | .pack63 a => effectPack63 a
  | .cscY2R sd sr al a4 dep b => effectCscY2R sd sr al a4 dep b s
  | .cscR2Y sd sr a4 dep b => effectCscR2Y sd sr a4 dep b s
  | .cscRDepth a4 dep dep2 b => effectCscRDepth a4 dep dep2 b s
  | .view fmt vm v => effectView fmt vm v s
  | .cmpv fmt vm v => effectCmpv fmt vm v s
  | .blit fmt b => effectBlit fmt b s
  | .qsplit q a => effectQsplit q a s
  | .qmerge q a => effectQmerge q a s

end Sys2Proof.Machine
end

