-- ==== Sys2Proof/Machine/Dispatch.lean ====
section
/-! DEFINITION. One arm per command: each calls its meaning. -/

namespace Sys2Proof.Machine

def exec (i : Instr) (s : State) : Host.Outcome State Fault Refusal :=
  match i with
  | .geom fmt => Sys2Proof.Machine.execGeom fmt s
  | .desc fmt vm r => Sys2Proof.Machine.execDesc fmt vm r s
  | .unpackY10P a => Sys2Proof.Machine.execUnpackY10P a s
  | .unpackY10P_BE a => Sys2Proof.Machine.execUnpackY10P_BE a s
  | .unpackY8P a => Sys2Proof.Machine.execUnpackY8P a s
  | .unpackRGB24 a => Sys2Proof.Machine.execUnpackRGB24 a s
  | .unpackRGBA32 a => Sys2Proof.Machine.execUnpackRGBA32 a s
  | .unpackRGB48 a => Sys2Proof.Machine.execUnpackRGB48 a s
  | .unpackRGB10P a => Sys2Proof.Machine.execUnpackRGB10P a s
  | .unpackRGB10P_BE a => Sys2Proof.Machine.execUnpackRGB10P_BE a s
  | .unpackRGB12P a => Sys2Proof.Machine.execUnpackRGB12P a s
  | .unpackY10_420_PL2 a => Sys2Proof.Machine.execUnpackY10_420_PL2 a s
  | .unpackY8_422_PL3 a => Sys2Proof.Machine.execUnpackY8_422_PL3 a s
  | .unpackY8_420_PL3 a => Sys2Proof.Machine.execUnpackY8_420_PL3 a s
  | .unpackCOMPRESSED a => Sys2Proof.Machine.execUnpackCOMPRESSED a s
  | .unpack13 a => Sys2Proof.Machine.execUnpack13 a s
  | .unpack14 a => Sys2Proof.Machine.execUnpack14 a s
  | .unpack15 a => Sys2Proof.Machine.execUnpack15 a s
  | .unpack16 a => Sys2Proof.Machine.execUnpack16 a s
  | .unpack17 a => Sys2Proof.Machine.execUnpack17 a s
  | .unpack18 a => Sys2Proof.Machine.execUnpack18 a s
  | .unpack19 a => Sys2Proof.Machine.execUnpack19 a s
  | .unpack20 a => Sys2Proof.Machine.execUnpack20 a s
  | .unpack21 a => Sys2Proof.Machine.execUnpack21 a s
  | .unpack22 a => Sys2Proof.Machine.execUnpack22 a s
  | .unpack23 a => Sys2Proof.Machine.execUnpack23 a s
  | .unpack24 a => Sys2Proof.Machine.execUnpack24 a s
  | .unpack25 a => Sys2Proof.Machine.execUnpack25 a s
  | .unpack26 a => Sys2Proof.Machine.execUnpack26 a s
  | .unpack27 a => Sys2Proof.Machine.execUnpack27 a s
  | .unpack28 a => Sys2Proof.Machine.execUnpack28 a s
  | .unpack29 a => Sys2Proof.Machine.execUnpack29 a s
  | .unpack30 a => Sys2Proof.Machine.execUnpack30 a s
  | .unpack31 a => Sys2Proof.Machine.execUnpack31 a s
  | .unpack32 a => Sys2Proof.Machine.execUnpack32 a s
  | .unpack33 a => Sys2Proof.Machine.execUnpack33 a s
  | .unpack34 a => Sys2Proof.Machine.execUnpack34 a s
  | .unpack35 a => Sys2Proof.Machine.execUnpack35 a s
  | .unpack36 a => Sys2Proof.Machine.execUnpack36 a s
  | .unpack37 a => Sys2Proof.Machine.execUnpack37 a s
  | .unpack38 a => Sys2Proof.Machine.execUnpack38 a s
  | .unpack39 a => Sys2Proof.Machine.execUnpack39 a s
  | .unpack40 a => Sys2Proof.Machine.execUnpack40 a s
  | .unpack41 a => Sys2Proof.Machine.execUnpack41 a s
  | .unpack42 a => Sys2Proof.Machine.execUnpack42 a s
  | .unpack43 a => Sys2Proof.Machine.execUnpack43 a s
  | .unpack44 a => Sys2Proof.Machine.execUnpack44 a s
  | .unpack45 a => Sys2Proof.Machine.execUnpack45 a s
  | .unpack46 a => Sys2Proof.Machine.execUnpack46 a s
  | .unpack47 a => Sys2Proof.Machine.execUnpack47 a s
  | .unpack48 a => Sys2Proof.Machine.execUnpack48 a s
  | .unpack49 a => Sys2Proof.Machine.execUnpack49 a s
  | .unpack50 a => Sys2Proof.Machine.execUnpack50 a s
  | .unpack51 a => Sys2Proof.Machine.execUnpack51 a s
  | .unpack52 a => Sys2Proof.Machine.execUnpack52 a s
  | .unpack53 a => Sys2Proof.Machine.execUnpack53 a s
  | .unpack54 a => Sys2Proof.Machine.execUnpack54 a s
  | .unpack55 a => Sys2Proof.Machine.execUnpack55 a s
  | .unpack56 a => Sys2Proof.Machine.execUnpack56 a s
  | .unpack57 a => Sys2Proof.Machine.execUnpack57 a s
  | .unpack58 a => Sys2Proof.Machine.execUnpack58 a s
  | .unpack59 a => Sys2Proof.Machine.execUnpack59 a s
  | .unpack60 a => Sys2Proof.Machine.execUnpack60 a s
  | .unpack61 a => Sys2Proof.Machine.execUnpack61 a s
  | .unpack62 a => Sys2Proof.Machine.execUnpack62 a s
  | .unpack63 a => Sys2Proof.Machine.execUnpack63 a s
  | .packY10P a => Sys2Proof.Machine.execPackY10P a s
  | .packY10P_BE a => Sys2Proof.Machine.execPackY10P_BE a s
  | .packY8P a => Sys2Proof.Machine.execPackY8P a s
  | .packRGB24 a => Sys2Proof.Machine.execPackRGB24 a s
  | .packRGBA32 a => Sys2Proof.Machine.execPackRGBA32 a s
  | .packRGB48 a => Sys2Proof.Machine.execPackRGB48 a s
  | .packRGB10P a => Sys2Proof.Machine.execPackRGB10P a s
  | .packRGB10P_BE a => Sys2Proof.Machine.execPackRGB10P_BE a s
  | .packRGB12P a => Sys2Proof.Machine.execPackRGB12P a s
  | .packY10_420_PL2 a => Sys2Proof.Machine.execPackY10_420_PL2 a s
  | .packY8_422_PL3 a => Sys2Proof.Machine.execPackY8_422_PL3 a s
  | .packY8_420_PL3 a => Sys2Proof.Machine.execPackY8_420_PL3 a s
  | .packCOMPRESSED a => Sys2Proof.Machine.execPackCOMPRESSED a s
  | .pack13 a => Sys2Proof.Machine.execPack13 a s
  | .pack14 a => Sys2Proof.Machine.execPack14 a s
  | .pack15 a => Sys2Proof.Machine.execPack15 a s
  | .pack16 a => Sys2Proof.Machine.execPack16 a s
  | .pack17 a => Sys2Proof.Machine.execPack17 a s
  | .pack18 a => Sys2Proof.Machine.execPack18 a s
  | .pack19 a => Sys2Proof.Machine.execPack19 a s
  | .pack20 a => Sys2Proof.Machine.execPack20 a s
  | .pack21 a => Sys2Proof.Machine.execPack21 a s
  | .pack22 a => Sys2Proof.Machine.execPack22 a s
  | .pack23 a => Sys2Proof.Machine.execPack23 a s
  | .pack24 a => Sys2Proof.Machine.execPack24 a s
  | .pack25 a => Sys2Proof.Machine.execPack25 a s
  | .pack26 a => Sys2Proof.Machine.execPack26 a s
  | .pack27 a => Sys2Proof.Machine.execPack27 a s
  | .pack28 a => Sys2Proof.Machine.execPack28 a s
  | .pack29 a => Sys2Proof.Machine.execPack29 a s
  | .pack30 a => Sys2Proof.Machine.execPack30 a s
  | .pack31 a => Sys2Proof.Machine.execPack31 a s
  | .pack32 a => Sys2Proof.Machine.execPack32 a s
  | .pack33 a => Sys2Proof.Machine.execPack33 a s
  | .pack34 a => Sys2Proof.Machine.execPack34 a s
  | .pack35 a => Sys2Proof.Machine.execPack35 a s
  | .pack36 a => Sys2Proof.Machine.execPack36 a s
  | .pack37 a => Sys2Proof.Machine.execPack37 a s
  | .pack38 a => Sys2Proof.Machine.execPack38 a s
  | .pack39 a => Sys2Proof.Machine.execPack39 a s
  | .pack40 a => Sys2Proof.Machine.execPack40 a s
  | .pack41 a => Sys2Proof.Machine.execPack41 a s
  | .pack42 a => Sys2Proof.Machine.execPack42 a s
  | .pack43 a => Sys2Proof.Machine.execPack43 a s
  | .pack44 a => Sys2Proof.Machine.execPack44 a s
  | .pack45 a => Sys2Proof.Machine.execPack45 a s
  | .pack46 a => Sys2Proof.Machine.execPack46 a s
  | .pack47 a => Sys2Proof.Machine.execPack47 a s
  | .pack48 a => Sys2Proof.Machine.execPack48 a s
  | .pack49 a => Sys2Proof.Machine.execPack49 a s
  | .pack50 a => Sys2Proof.Machine.execPack50 a s
  | .pack51 a => Sys2Proof.Machine.execPack51 a s
  | .pack52 a => Sys2Proof.Machine.execPack52 a s
  | .pack53 a => Sys2Proof.Machine.execPack53 a s
  | .pack54 a => Sys2Proof.Machine.execPack54 a s
  | .pack55 a => Sys2Proof.Machine.execPack55 a s
  | .pack56 a => Sys2Proof.Machine.execPack56 a s
  | .pack57 a => Sys2Proof.Machine.execPack57 a s
  | .pack58 a => Sys2Proof.Machine.execPack58 a s
  | .pack59 a => Sys2Proof.Machine.execPack59 a s
  | .pack60 a => Sys2Proof.Machine.execPack60 a s
  | .pack61 a => Sys2Proof.Machine.execPack61 a s
  | .pack62 a => Sys2Proof.Machine.execPack62 a s
  | .pack63 a => Sys2Proof.Machine.execPack63 a s
  | .cscY2R sd sr al a4 dep b => Sys2Proof.Machine.execCscY2R sd sr al a4 dep b s
  | .cscR2Y sd sr a4 dep b => Sys2Proof.Machine.execCscR2Y sd sr a4 dep b s
  | .cscRDepth a4 dep dep2 b => Sys2Proof.Machine.execCscRDepth a4 dep dep2 b s
  | .view fmt vm v => Sys2Proof.Machine.execView fmt vm v s
  | .cmpv fmt vm v => Sys2Proof.Machine.execCmpv fmt vm v s
  | .blit fmt b => Sys2Proof.Machine.execBlit fmt b s
  | .qsplit q a => Sys2Proof.Machine.execQsplit q a s
  | .qmerge q a => Sys2Proof.Machine.execQmerge q a s

end Sys2Proof.Machine
end

