-- ==== Sys2Proof/Machine/HostPort.lean ====
section
/-! DEFINITION. The host's side of the machine: the register window (10_state.md R20 to R24), the `GO` write that runs one
operation (R23, 70_reset_and_hazards.md R341), and everything else the host or the platform may do while the engine is idle
(R340, R310). -/

namespace Sys2Proof.Machine

/-- A register of the window. -/
inductive WindowReg where
  | cmd (i : Fin 16)
  | ctrl
  | status
  | res (i : Fin 12)
  | reserved
deriving DecidableEq, Repr

/-- The byte offset of `CTRL` (10_state.md R20). -/
def ctrlOffset : Nat := 0x40

/-- The register at word `n` of the window, byte offset `4 n` (10_state.md R20). -/
def windowReg (n : Nat) : WindowReg :=
  if hc : n < 16 then .cmd ⟨n, hc⟩
  else if n = 0x40 / 4 then .ctrl
  else if n = 0x44 / 4 then .status
  else if hr : 0x80 / 4 ≤ n ∧ n - 0x80 / 4 < 12 then .res ⟨n - 0x80 / 4, hr.2⟩
  else .reserved

/-- What the host reads in a register: `CTRL` and reserved offsets read as 0 (10_state.md R20, R23). -/
def regValue (s : State) (r : WindowReg) : Word :=
  match r with
  | .cmd i => s.cmd[i]
  | .ctrl => 0
  | .status => s.status
  | .res i => s.res[i]
  | .reserved => 0

/-- `GO`, bit 0 of what is written to `CTRL` (10_state.md R23). -/
def goBit (value : Word) : Bool := flag value 0

/-- The operation a `GO` write starts: the command in `CMD`, or `IllegalCommand` (70_reset_and_hazards.md R341,
30_encoding.md R90). -/
def runCommand (s : State) : Host.Outcome State Fault Refusal :=
  match decode s.cmd with
  | .ok i => exec i s
  | .error _ => .next (raiseFail .illegalCommand .notMade s)

/-- The same operation, as an effect. -/
def commandEffect (s : State) : Effect :=
  match decode s.cmd with
  | .ok i => effectOf i s
  | .error _ => .failed .illegalCommand .notMade

/-- A host write to a register: `CMD` takes it, `CTRL` with `GO = 1` runs one operation, every other write has no effect
(10_state.md R20 to R24, 70_reset_and_hazards.md R340). -/
def writeRegister (s : State) (r : WindowReg) (value : Word) : Host.Outcome State Fault Refusal :=
  match r with
  | .cmd i => .next { s with cmd := s.cmd.set i value }
  | .ctrl => if goBit value then runCommand s else .next s
  | .status => .next s
  | .res _ => .next s
  | .reserved => .next s

/-- The host has read a value (70_reset_and_hazards.md R341); a read has no other effect (R340). -/
def observe (s : State) (value : Word) : State := { s with seen := s.seen ++ [value] }

/-- The offset is a whole word's (10_state.md R20: "Registers are read and written as whole 32-bit words"). -/
abbrev wholeWord (offset : Nat) : Prop := offset % 4 = 0

/-- One action of the host or the platform (70_reset_and_hazards.md R340, R310). -/
def perform (action : HostAction) (s : State) : Host.Outcome State Fault Refusal :=
  match action with
  | .writeReg offset value =>
    if wholeWord offset then writeRegister s (windowReg (offset / 4)) value else .refused .partialRegisterAccess
  | .readReg offset =>
    if wholeWord offset then .next (observe s (regValue s (windowReg (offset / 4)))) else .refused .partialRegisterAccess
  | .writeByte addr value =>
    if touchesUnbacked s [⟨addr.toNat, 1⟩] then .fault .unbackedMemory
    else .next { s with mem := memStore s.mem addr.toNat value }
  | .readByte addr =>
    if touchesUnbacked s [⟨addr.toNat, 1⟩] then .fault .unbackedMemory
    else .next (observe s ((memByte s.mem addr.toNat).setWidth 32))
  | .reset => .next (resetRegisters s)
  | .goThenReset => abandon (commandEffect s) s

/-- The `GO` write (10_state.md R23). -/
def goWrite : HostAction := .writeReg ctrlOffset 1

/-- The action starts an operation that breaks the `require` lines of a `PACK` rule (41_line_codec.md R172,
93_implementation_defined.md U1). -/
def startsUndefined (action : HostAction) (s : State) : Bool :=
  match action with
  | .writeReg offset value => offset == ctrlOffset && goBit value && leavesUndefined (commandEffect s)
  | .goThenReset => leavesUndefined (commandEffect s)
  | .readReg _ => false
  | .writeByte _ _ => false
  | .readByte _ => false
  | .reset => false

/-- The machine does the next thing the host asks of it; with nothing asked it is idle (70_reset_and_hazards.md R311). A
`PACK` of a sample wider than its field is outside the premises of 60_exceptions.md R286 and has no step (R341): the model
refuses it (41_line_codec.md R172). Log 5. -/
def nextAction (s : State) : Host.Outcome State Fault Refusal :=
  match s.pending with
  | [] => .next s
  | action :: rest =>
    if startsUndefined action s then .refused .oversizeSample else perform action { s with pending := rest }

/-- `CMD` loaded with an instruction of the opcode table and the `GO` write next. -/
def placeCommand (s : State) (nbits w : Nat) : State :=
  { s with cmd := tableCommand nbits w, pending := goWrite :: s.pending }

end Sys2Proof.Machine
end

