-- ==== Sys2Proof/Machine/Step.lean ====
section
/-! DEFINITION. The machine's step: one action of its host (70_reset_and_hazards.md R340, R341). -/

namespace Sys2Proof.Machine

/-- One step. Log 2. -/
def step (s : State) : Host.Outcome State Fault Refusal := nextAction s

/-- The state with one instruction of the opcode table in `CMD` and the host about to write `GO`, so that the next step runs
it. Log 2. -/
def State.withFetchWord (s : State) (nbits w : Nat) : State := placeCommand s nbits w

end Sys2Proof.Machine
end

