-- ==== Sys2Proof/Safety.lean ====
section
/-! DEFINITION. The terms in which claims speak of the machine: the invariant of every step, what an operation leaves, which
words spell a command, and the conditions under which each family's rules say that an operation succeeds. The numbers here
are copied from the rules, not taken from the machine's own definitions. -/

namespace Sys2Proof.Machine

/-! ## Ranges and the state -/

/-- An address is one of a range's. -/
abbrev inRange (r : Range) (x : Nat) : Prop := r.base ≤ x ∧ x < r.base + r.len

/-- Two ranges of a command have no byte in common (20_memory.md R68). -/
abbrev disjoint (x y : Range) : Prop := ¬ x.overlaps y

/-- Every address of a range has memory behind it (20_memory.md R59). -/
abbrev isBacked (s : State) (r : Range) : Prop := ∀ h ∈ s.unbacked, ¬ r.overlaps h

/-- The premises of 60_exceptions.md R286 for a command that reads one range and writes another: they do not overlap
(20_memory.md R68) and both have memory behind them (R59). -/
abbrev premises (s : State) (src dst : Range) : Prop := disjoint dst src ∧ isBacked s src ∧ isBacked s dst

/-- The `STATUS` values there are (10_state.md R24, 60_exceptions.md R280, R281): after reset, success, success with
`VALID`, equal, not equal, the five failures, and unsupported for comparison. -/
def legalStatuses : List Word :=
  [0x000, 0x001, 0x401, 0x101, 0x201, 0x013, 0x023, 0x033, 0x043, 0x0F3, 0x313]

/-- What every step keeps: memory in its canonical form, `STATUS` one of the legal values, and after a failure every result
word zero (60_exceptions.md R280). -/
structure StateInv (s : State) : Prop where
  memory : Memory.wf s.mem
  status : s.status ∈ legalStatuses
  results : failBit s.status = true → s.res = .replicate 12 0

/-! ## What an operation leaves -/

/-- The state `t` after an operation that began in `s`: this `STATUS`, these `RES`, every byte but the stored ones as it
was, and the rest of the machine but the model's own count of free values as it was (10_state.md R21 to R24). -/
structure Ended (s t : State) (status : Word) (res : Vector Word 12) (stored : Nat → Prop) : Prop where
  status : t.status = status
  res : t.res = res
  cmd : t.cmd = s.cmd
  params : t.params = s.params
  unbacked : t.unbacked = s.unbacked
  pending : t.pending = s.pending
  seen : t.seen = s.seen
  memory : ∀ x, ¬ stored x → memByte t.mem x = memByte s.mem x

/-- The state after a failed operation (60_exceptions.md R280, R281, 70_reset_and_hazards.md R341): `STATUS` is 0x003 and 16
times the code, every result word is zero, nothing else has changed. -/
def failedWith (s : State) (err : Nat) : State := { s with status := .ofNat 32 (0x003 + 16 * err), res := .replicate 12 0 }

/-- Twelve result words that begin with the given ones; the rest are zero (10_state.md R22). -/
def resultWords (vs : List Nat) : Vector Word 12 := Vector.ofFn fun i => .ofNat 32 (vs.getD i 0)

/-! ## Command words -/

/-- One row of the mask table of 30_encoding.md section 5: the opcode, bits that must be one (`HD`, for the longer form of
format L), bits that must be zero, and the first unused word. -/
structure CommandForm where
  op : Word
  ones : Word
  zeros : Word
  firstUnused : Nat
deriving DecidableEq, Repr

/-- The mask table of 30_encoding.md section 5; format L without a descriptor has `HD` among its zeros. -/
def commandForms : List CommandForm :=
  [⟨0x01, 0, 0xFFFFC000, 1⟩, ⟨0x02, 0, 0xFFDFC000, 4⟩, ⟨0x10, 0x00100000, 0xFFC00000, 9⟩, ⟨0x10, 0, 0xFFFFC000, 6⟩,
    ⟨0x11, 0x00100000, 0xFFC00000, 9⟩, ⟨0x11, 0, 0xFFFFC000, 6⟩, ⟨0x20, 0, 0xF03FFF00, 6⟩, ⟨0x21, 0, 0xF13FFF00, 6⟩,
    ⟨0x22, 0, 0xC1FFFF00, 6⟩, ⟨0x30, 0, 0xFFDFC000, 8⟩, ⟨0x31, 0, 0xFFDFC000, 8⟩, ⟨0x40, 0, 0xFFFFC000, 13⟩,
    ⟨0x41, 0, 0x3FFFFF00, 6⟩, ⟨0x42, 0, 0x3FFFFF00, 6⟩]

/-- A command meets a row of the mask table. -/
abbrev CommandForm.accepts (f : CommandForm) (cmd : Command) : Prop :=
  cmd[0] &&& 0xFF#32 = f.op ∧ cmd[0] &&& f.ones = f.ones ∧ cmd[0] &&& f.zeros = 0 ∧
    ∀ i : Fin 16, f.firstUnused ≤ i.val → cmd[i] = 0

/-- `DEP` and, for `CSC.RDEPTH`, `DEP2` do not hold the reserved value 3 (30_encoding.md R90 (c)). -/
abbrev depthsLegal (cmd : Command) : Prop :=
  (cmd[0] &&& 0xFF#32 ∈ [0x20#32, 0x21#32, 0x22#32] → cmd[0] &&& 0x0C000000#32 ≠ 0x0C000000#32) ∧
    (cmd[0] &&& 0xFF#32 = 0x22#32 → cmd[0] &&& 0x30000000#32 ≠ 0x30000000#32)

/-- Sixteen words that spell an operation (30_encoding.md R89, R90): everything else is illegal. -/
abbrev legalCommand (cmd : Command) : Prop := (∃ f ∈ commandForms, f.accepts cmd) ∧ depthsLegal cmd

/-! ## The line codec -/

/-- The checks of `lineChecks` pass, for a format with a codec and groups of `gP` pixels, `gB` bytes, `gC` components
(41_line_codec.md R151). -/
abbrev linePasses (fmt : PixelFormat) (gB gC gP : Nat) (a : LineArgs) : Prop :=
  (a.packedAddr ≠ 0 ∧ a.compAddr ≠ 0) ∧ gP ≤ a.pixelCount ∧
    (∀ d ∈ a.desc, (mkDesc d.dfmt d.size d.vm).valid = true ∧ d.dfmt = fmt) ∧
    (a.pixelCount / gP * gB ≤ a.packedLen ∧ a.packedAddr + a.packedLen ≤ 2 ^ 32) ∧
    (2 * (a.pixelCount / gP) * gC ≤ a.compLen ∧ a.compAddr + a.compLen ≤ 2 ^ 32)

/-- The packed bytes of the whole groups. -/
abbrev packedRange (gB gP : Nat) (a : LineArgs) : Range := ⟨a.packedAddr, a.pixelCount / gP * gB⟩

/-- The component cells of the whole groups. -/
abbrev compRange (gC gP : Nat) (a : LineArgs) : Range := ⟨a.compAddr, 2 * (a.pixelCount / gP) * gC⟩

/-- Component cell `i` of a line in a state (41_line_codec.md R152). -/
abbrev compCell (s : State) (a : LineArgs) (i : Nat) : Nat := memRead s.mem (a.compAddr + 2 * i) 2

/-- A row of `UNPACK` with a codec: `word` is bits 13:0 of its `CMD[0]`; where its checks do not all pass it fails with
`BadBufferSize`; where they do it succeeds, writes exactly the cells of the whole groups, and component `i` is
`component a s i` (41_line_codec.md R150 to R152, R175). -/
def UnpacksTo (make : LineArgs → Instr) (word : Word) (fmt : PixelFormat) (gB gC gP : Nat)
    (component : LineArgs → State → Nat → Nat) : Prop :=
  (∀ a, WellFormed (make a) → (encode (make a))[0] &&& 0x3FFF#32 = word) ∧
    (∀ a s, ¬ linePasses fmt gB gC gP a → exec (make a) s = .next (failedWith s 2)) ∧
    ∀ a s, Memory.wf s.mem → linePasses fmt gB gC gP a → premises s (packedRange gB gP a) (compRange gC gP a) →
      ∃ t, exec (make a) s = .next t ∧ Ended s t 0x001 (.replicate 12 0) (inRange (compRange gC gP a)) ∧
        t.drawn = s.drawn ∧ ∀ i < a.pixelCount / gP * gC, compCell t a i = component a s i

/-- A row of `PACK` with a codec: as `UnpacksTo`; where every cell of a group is at most its maximum, the packed line
afterwards is `packed a s t` (41_line_codec.md R150 to R152, R175). -/
def PacksTo (make : LineArgs → Instr) (word : Word) (fmt : PixelFormat) (gB gC gP : Nat) (maximum : Nat → Nat)
    (packed : LineArgs → State → State → Prop) : Prop :=
  (∀ a, WellFormed (make a) → (encode (make a))[0] &&& 0x3FFF#32 = word) ∧
    (∀ a s, ¬ linePasses fmt gB gC gP a → exec (make a) s = .next (failedWith s 2)) ∧
    ∀ a s, Memory.wf s.mem → linePasses fmt gB gC gP a → premises s (compRange gC gP a) (packedRange gB gP a) →
      (∀ i < a.pixelCount / gP * gC, compCell s a i ≤ maximum (i % gC)) →
      ∃ t, exec (make a) s = .next t ∧ Ended s t 0x001 (.replicate 12 0) (inRange (packedRange gB gP a)) ∧
        t.drawn = s.drawn ∧ packed a s t

/-- A `PACK` and an `UNPACK` row with a codec, their format, its group, and the maximum of each component of a group. -/
structure CodecPair where
  pack : LineArgs → Instr
  unpack : LineArgs → Instr
  fmt : PixelFormat
  gB : Nat
  gC : Nat
  gP : Nat
  maximum : Nat → Nat

/-- The nine formats with a line codec (41_line_codec.md R150, R172, 40_catalog_descriptor.md R121). -/
def codecPairs : List CodecPair :=
  [⟨.packY10P, .unpackY10P, .y10p, 16, 12, 6, fun _ => 0x3FF⟩,
    ⟨.packY10P_BE, .unpackY10P_BE, .y10pBE, 16, 12, 6, fun _ => 0x3FF⟩,
    ⟨.packY8P, .unpackY8P, .y8p, 4, 4, 2, fun _ => 0xFF⟩, ⟨.packRGB24, .unpackRGB24, .rgb24, 3, 3, 1, fun _ => 0xFF⟩,
    ⟨.packRGBA32, .unpackRGBA32, .rgba32, 4, 4, 1, fun _ => 0xFF⟩,
    ⟨.packRGB48, .unpackRGB48, .rgb48, 6, 3, 1, fun _ => 0xFFFF⟩,
    ⟨.packRGB10P, .unpackRGB10P, .rgb10p, 4, 4, 1, fun j => if j = 3 then 0x3 else 0x3FF⟩,
    ⟨.packRGB10P_BE, .unpackRGB10P_BE, .rgb10pBE, 4, 4, 1, fun j => if j = 3 then 0x3 else 0x3FF⟩,
    ⟨.packY10_420_PL2, .unpackY10_420_PL2, .y10_420pl2, 20, 16, 16, fun _ => 0x3FF⟩]

/-- A `PACK` with a codec whose checks and premises pass and whose component line breaks a `require`: some cell of a whole
group is above its maximum (41_line_codec.md R172, 93_implementation_defined.md U1). -/
def breaksRequire (i : Instr) (s : State) : Prop :=
  ∃ p ∈ codecPairs, ∃ a, i = p.pack a ∧ linePasses p.fmt p.gB p.gC p.gP a ∧
    premises s (compRange p.gC p.gP a) (packedRange p.gB p.gP a) ∧
    ∃ n < a.pixelCount / p.gP * p.gC, p.maximum (n % p.gC) < compCell s a n

/-- The 110 rows without a line codec (41_line_codec.md R171): codes 8 and 10 to 63 of both directions. -/
def uncodedRows : List (LineArgs → Instr) :=
  [.unpackRGB12P, .unpackY8_422_PL3, .unpackY8_420_PL3, .unpackCOMPRESSED,
    .unpack13, .unpack14, .unpack15, .unpack16, .unpack17, .unpack18, .unpack19, .unpack20, .unpack21, .unpack22,
    .unpack23, .unpack24, .unpack25, .unpack26, .unpack27, .unpack28, .unpack29, .unpack30, .unpack31, .unpack32,
    .unpack33, .unpack34, .unpack35, .unpack36, .unpack37, .unpack38, .unpack39, .unpack40, .unpack41, .unpack42,
    .unpack43, .unpack44, .unpack45, .unpack46, .unpack47, .unpack48, .unpack49, .unpack50, .unpack51, .unpack52,
    .unpack53, .unpack54, .unpack55, .unpack56, .unpack57, .unpack58, .unpack59, .unpack60, .unpack61, .unpack62,
    .unpack63,
    .packRGB12P, .packY8_422_PL3, .packY8_420_PL3, .packCOMPRESSED,
    .pack13, .pack14, .pack15, .pack16, .pack17, .pack18, .pack19, .pack20, .pack21, .pack22, .pack23, .pack24,
    .pack25, .pack26, .pack27, .pack28, .pack29, .pack30, .pack31, .pack32, .pack33, .pack34, .pack35, .pack36,
    .pack37, .pack38, .pack39, .pack40, .pack41, .pack42, .pack43, .pack44, .pack45, .pack46, .pack47, .pack48,
    .pack49, .pack50, .pack51, .pack52, .pack53, .pack54, .pack55, .pack56, .pack57, .pack58, .pack59, .pack60,
    .pack61, .pack62, .pack63]

/-! ## The converter -/

/-- The checks of `cscChecks` after the null check pass (42_color_space.md R204). -/
abbrev cscPasses (minPixels nIn nOut : Nat) (b : LinePair) : Prop :=
  minPixels ≤ b.pixelCount ∧ (nIn ≤ b.srcLen ∧ b.srcAddr + b.srcLen ≤ 2 ^ 32) ∧
    (nOut ≤ b.dstLen ∧ b.dstAddr + b.dstLen ≤ 2 ^ 32)

/-- A converter operation by its check's numbers: null buffers fail with `NullBuffer`, the other checks with
`BadBufferSize`, and where all pass it succeeds, writes exactly `nOut` bytes from `dstAddr`, and the destination line
afterwards is `converted s t` (42_color_space.md R204 to R206). -/
def ConvertsTo (i : Instr) (b : LinePair) (minPixels nIn nOut : Nat) (converted : State → State → Prop) : Prop :=
  (∀ s, b.srcAddr = 0 ∨ b.dstAddr = 0 → exec i s = .next (failedWith s 4)) ∧
    (∀ s, b.srcAddr ≠ 0 → b.dstAddr ≠ 0 → ¬ cscPasses minPixels nIn nOut b → exec i s = .next (failedWith s 2)) ∧
    ∀ s, Memory.wf s.mem → b.srcAddr ≠ 0 → b.dstAddr ≠ 0 → cscPasses minPixels nIn nOut b →
      premises s ⟨b.srcAddr, nIn⟩ ⟨b.dstAddr, nOut⟩ →
      ∃ t, exec i s = .next t ∧ Ended s t 0x001 (.replicate 12 0) (inRange ⟨b.dstAddr, nOut⟩) ∧ t.drawn = s.drawn ∧
        converted s t

/-- Cell `i` of the source line (42_color_space.md R201). -/
abbrev srcCell (s : State) (b : LinePair) (i : Nat) : Nat := memRead s.mem (b.srcAddr + 2 * i) 2

/-- Cell `i` of the destination line (42_color_space.md R201). -/
abbrev dstCell (s : State) (b : LinePair) (i : Nat) : Nat := memRead s.mem (b.dstAddr + 2 * i) 2

/-- The cells of the RGB pixel that begins at destination cell `first` are a kernel result at depth `dep`, wrapped to 16
bits, and, with four samples a pixel, the alpha of luma `y` (42_color_space.md R197, R198, R200). -/
def pixelHolds (s t : State) (al a4 : Bool) (dep : Depth) (b : LinePair) (first y : Nat) (rgb : Int × Int × Int) : Prop :=
  dstCell t b first = wrap16 (from10 rgb.1 dep) ∧ dstCell t b (first + 1) = wrap16 (from10 rgb.2.1 dep) ∧
    dstCell t b (first + 2) = wrap16 (from10 rgb.2.2 dep) ∧
    (a4 = true → dstCell t b (first + 3) = wrap16 (if al then y / 4 else alphaDefault s.params.alpha dep))

/-! ## The reader -/

/-- The checks of `viewChecks` after the null check and the format's check pass (43_component_reader.md R228). -/
abbrev viewGeometryPasses (fmt : PixelFormat) (d : Descriptor) : Prop :=
  d.valid = true ∧ (d.planeCount = 1 → d.pitch0 % (elementGeometry fmt).bytesPerElement = 0)

/-- `VIEW` is ready: its checks pass and its buffers meet the premises (43_component_reader.md R227, R228). -/
structure ViewReady (fmt : PixelFormat) (d : Descriptor) (v : ViewArgs) (s : State) : Prop where
  notNull : v.aAddr ≠ 0 ∧ v.bAddr ≠ 0
  modelled : isModelled fmt
  geometry : viewGeometryPasses fmt d
  fitsA : d.totalBytes ≤ v.aLen ∧ v.aAddr + v.aLen ≤ 2 ^ 32
  fitsB : 2 * slotCount fmt d ≤ v.bLen ∧ v.bAddr + v.bLen ≤ 2 ^ 32
  apart : premises s ⟨v.aAddr, d.totalBytes⟩ ⟨v.bAddr, 2 * slotCount fmt d⟩

/-- `CMPV` is ready: its checks pass and both buffers have memory behind them; they may overlap
(43_component_reader.md R228, R229). -/
structure CompareReady (fmt : PixelFormat) (d : Descriptor) (v : ViewArgs) (s : State) : Prop where
  notNull : v.aAddr ≠ 0 ∧ v.bAddr ≠ 0
  modelled : isModelled fmt
  geometry : viewGeometryPasses fmt d
  fitsA : d.totalBytes ≤ v.aLen ∧ v.aAddr + v.aLen ≤ 2 ^ 32
  fitsB : d.totalBytes ≤ v.bLen ∧ v.bAddr + v.bLen ≤ 2 ^ 32
  backed : isBacked s ⟨v.aAddr, d.totalBytes⟩ ∧ isBacked s ⟨v.bAddr, d.totalBytes⟩

/-! ## The raster transforms -/

/-- `BLIT` is ready, for a granularity of `gP` pixels (44_raster_transforms.md R252). -/
structure BlitReady (gP : Nat) (b : BlitArgs) (s : State) : Prop where
  notNull : b.srcAddr ≠ 0 ∧ b.dstAddr ≠ 0
  notSame : b.srcAddr ≠ b.dstAddr
  notEmpty : b.srcPitch ≠ 0 ∧ b.dstPitch ≠ 0 ∧ b.srcHeight ≠ 0 ∧ b.dstHeight ≠ 0
  whole : b.srcX % gP = 0 ∧ b.rectW % gP = 0 ∧ b.dstX % gP = 0
  fits : b.srcAddr + b.srcPitch * b.srcHeight ≤ 2 ^ 32 ∧ b.dstAddr + b.dstPitch * b.dstHeight ≤ 2 ^ 32
  apart : premises s ⟨b.srcAddr, b.srcPitch * b.srcHeight⟩ ⟨b.dstAddr, b.dstPitch * b.dstHeight⟩

/-- An address is one of the bytes a `BLIT` stores: byte `j` of row `r` of the clipped rectangle
(44_raster_transforms.md R254). -/
abbrev blitStores (gB gP : Nat) (b : BlitArgs) (x : Nat) : Prop :=
  ∃ r < clipHeight b, ∃ j < blitRowBytes gB gP b, x = blitTarget gB gP b r + j

/-- The geometry of a full raster and its quadrant is one a quadrant operation accepts (44_raster_transforms.md R259). -/
structure QuadPasses (a : QuadArgs) : Prop where
  notNull : a.fullAddr ≠ 0 ∧ a.quadAddr ≠ 0
  notSame : a.fullAddr ≠ a.quadAddr
  notEmpty : a.fullPitch ≠ 0 ∧ a.fullHeight ≠ 0
  even : a.fullPitch % 2 = 0 ∧ a.fullHeight % 2 = 0
  offset : a.quad13Offset ≤ a.fullPitch / 2
  fits : a.fullAddr + a.fullPitch * a.fullHeight ≤ 2 ^ 32 ∧
    a.quadAddr + a.fullPitch / 2 * (a.fullHeight / 2) ≤ 2 ^ 32

/-- A quadrant operation is ready, by the range it reads and the range it writes (44_raster_transforms.md R257, R258). -/
structure QuadReady (a : QuadArgs) (s : State) (src dst : Range) : Prop where
  passes : QuadPasses a
  apart : premises s src dst

/-- An address is one of the bytes of the full raster that `QMERGE` stores (44_raster_transforms.md R258). -/
abbrev mergeStores (q : Quadrant) (a : QuadArgs) (x : Nat) : Prop :=
  ∃ r < quadHeight a, ∃ j < quadPitch a, x = quadRowInFull q a r + j

end Sys2Proof.Machine
end

