-- ==== Sys2Proof/Certificates/Slice0/Obligations.lean ====
section
/-! DEFINITION. The statements about the machine that the provers prove. -/

open Sys2Proof Sys2Proof.Machine

/-! ## Encoding -/

/-- 30_encoding.md R80 to R91: the words of every well-formed command decode to it, with every operand at every value. -/
def Obligations.EncodeThenDecode : Prop := ∀ i, WellFormed i → decode (encode i) = .ok i

/-- 30_encoding.md R89: sixteen words that decode to a command are exactly that command's words, so no bit is dropped and no
two words spell one command. -/
def Obligations.DecodeThenEncode : Prop := ∀ cmd i, decode cmd = .ok i → WellFormed i ∧ encode i = cmd

/-- 30_encoding.md R93 and 95_test_vectors.md: a few commands written out word by word. -/
def Obligations.SampleWordsDecode : Prop :=
  decode (commandOfNats 0x00000001 0 0 0 0 0 0 0 0 0 0 0 0 0 0 0) = .ok (.geom .y10p) ∧
    decode (commandOfNats 0x00200902 3840 2160 30 0 0 0 0 0 0 0 0 0 0 0 0) =
      .ok (.desc .y10_420pl2 true ⟨3840, 2160, 30⟩) ∧
    decode (commandOfNats 0x00000010 0x2000 16 0x3000 24 6 0 0 0 0 0 0 0 0 0 0) =
      .ok (.unpackY10P ⟨0x2000, 16, 0x3000, 24, 6, none⟩) ∧
    decode (commandOfNats 0x0031C711 0x2000 4 0x3000 8 1 1 1 0 0 0 0 0 0 0 0) =
      .ok (.packRGB10P_BE ⟨0x2000, 4, 0x3000, 8, 1, some ⟨.rgb10pBE, true, ⟨1, 1, 0⟩⟩⟩) ∧
    decode (commandOfNats 0x03000020 0x3000 24 0x4000 48 6 0 0 0 0 0 0 0 0 0 0) =
      .ok (.cscY2R false false true true .d8 ⟨0x3000, 24, 0x4000, 48, 6⟩) ∧
    decode (commandOfNats 0x00000631 0x1000 4 0x2000 4 1 1 0 0 0 0 0 0 0 0 0) =
      .ok (.cmpv .rgb10p false ⟨0x1000, 4, 0x2000, 4, ⟨1, 1, 0⟩⟩) ∧
    decode (commandOfNats 0x00000340 0x1000 12 3 0x2000 9 2 1 1 4 4 1 0 0 0 0) =
      .ok (.blit .rgb24 ⟨0x1000, 12, 3, 0x2000, 9, 2, 1, 1, 4, 4, 1, 0⟩) ∧
    decode (commandOfNats 0xC0000041 0x1000 8 4 0x2000 2 0 0 0 0 0 0 0 0 0 0) =
      .ok (.qsplit .lowerRight ⟨0x1000, 8, 4, 0x2000, 2⟩)

/-- 30_encoding.md R89, R90: the words the mask table accepts are a command; all others are illegal, and a `GO` write on them
ends with `IllegalCommand`, zero results and memory as it was. -/
def Obligations.IllegalCommandsFail : Prop :=
  ∀ s : State, (legalCommand s.cmd → ∃ i, decode s.cmd = .ok i) ∧
    (¬ legalCommand s.cmd →
      (∃ e, decode s.cmd = .error e) ∧ perform (.writeReg 0x40 1) s = .next { s with status := 0x0F3, res := .replicate 12 0 })

/-! ## The host -/

/-- 10_state.md R29: what reset leaves, from any state and in the model's reset state, and that a stray `GO` after it fails
with `IllegalCommand` and leaves memory as it was. -/
def Obligations.Reset : Prop :=
  (∀ s : State, ∃ t, perform .reset s = .next t ∧
    ((∀ i : Fin 16, t.cmd[i] = 0) ∧ t.status = 0 ∧ ∀ i : Fin 12, t.res[i] = 0) ∧
    perform (.readReg 0x40) t = .next { t with seen := t.seen ++ [0] } ∧
    (t.mem = s.mem ∧ t.params = s.params) ∧
    perform (.writeReg 0x40 1) t = .next { t with status := 0x0F3 }) ∧
    (∀ i : Fin 16, State.reset.cmd[i] = 0) ∧ State.reset.status = 0 ∧ ∀ i : Fin 12, State.reset.res[i] = 0

/-- 10_state.md R20, R23, 70_reset_and_hazards.md R340: where the registers lie, what the host reads in each, and that a read
changes nothing. What the host has read is the model's own field `seen` (log 12). -/
def Obligations.RegisterReads : Prop :=
  ∀ s : State,
    (∀ i : Fin 16, perform (.readReg (0x00 + 4 * i.val)) s = .next { s with seen := s.seen ++ [s.cmd[i]] }) ∧
    perform (.readReg 0x40) s = .next { s with seen := s.seen ++ [0] } ∧
    perform (.readReg 0x44) s = .next { s with seen := s.seen ++ [s.status] } ∧
    (∀ i : Fin 12, perform (.readReg (0x80 + 4 * i.val)) s = .next { s with seen := s.seen ++ [s.res[i]] }) ∧
    ∀ n, n % 4 = 0 → (0x48 ≤ n ∧ n ≤ 0x7C ∨ 0xB0 ≤ n) → perform (.readReg n) s = .next { s with seen := s.seen ++ [0] }

/-- 10_state.md R21 to R24, 70_reset_and_hazards.md R340: a write to `CMD[i]` sets that word and nothing else; writes to
`STATUS`, `RES` and reserved offsets, and to `CTRL` with `GO = 0`, have no effect. -/
def Obligations.RegisterWrites : Prop :=
  ∀ (s : State) (v : Word),
    (∀ i : Fin 16, ∃ t, perform (.writeReg (0x00 + 4 * i.val) v) s = .next t ∧ t = { s with cmd := t.cmd } ∧ t.cmd[i] = v ∧
      ∀ j : Fin 16, j ≠ i → t.cmd[j] = s.cmd[j]) ∧
    (v &&& 1 = 0 → perform (.writeReg 0x40 v) s = .next s) ∧ perform (.writeReg 0x44 v) s = .next s ∧
    (∀ i : Fin 12, perform (.writeReg (0x80 + 4 * i.val) v) s = .next s) ∧
    ∀ n, n % 4 = 0 → (0x48 ≤ n ∧ n ≤ 0x7C ∨ 0xB0 ≤ n) → perform (.writeReg n v) s = .next s

/-- 10_state.md R23: a write to `CTRL` with `GO = 1`, whatever its reserved bits, runs the command then in `CMD` to its
end; one with `GO = 0` has no effect; `CTRL` reads as 0. -/
def Obligations.GoRunsTheCommand : Prop :=
  ∀ (s : State) (v : Word),
    (v &&& 1 = 1 →
      (∀ i, decode s.cmd = .ok i → perform (.writeReg 0x40 v) s = exec i s) ∧
      ∀ e, decode s.cmd = .error e → perform (.writeReg 0x40 v) s = .next (failedWith s 15)) ∧
    (v &&& 1 = 0 → perform (.writeReg 0x40 v) s = .next s) ∧
    perform (.readReg 0x40) s = .next { s with seen := s.seen ++ [0] }

/-- 20_memory.md R50, R62, 70_reset_and_hazards.md R340: the host writes one byte of backed memory and reads one, and
changes nothing else. -/
def Obligations.HostMemoryBytes : Prop :=
  ∀ (s : State) (a : BitVec 32) (v : Byte), Memory.wf s.mem → isBacked s ⟨a.toNat, 1⟩ →
    (∃ t, perform (.writeByte a v) s = .next t ∧ t = { s with mem := t.mem } ∧ memByte t.mem a.toNat = v ∧
      ∀ x, x ≠ a.toNat → memByte t.mem x = memByte s.mem x) ∧
    perform (.readByte a) s = .next { s with seen := s.seen ++ [(memByte s.mem a.toNat).setWidth 32] }

/-- The model's own stops of a host access (logs 7 and 11): a byte with no memory behind it, and a register offset that is
not a whole word's (20_memory.md R59, 10_state.md R20). -/
def Obligations.HostAccessStops : Prop :=
  ∀ (s : State) (a : BitVec 32) (b : Byte) (n : Nat) (v : Word),
    (¬ isBacked s ⟨a.toNat, 1⟩ →
      perform (.writeByte a b) s = .fault .unbackedMemory ∧ perform (.readByte a) s = .fault .unbackedMemory) ∧
    (n % 4 ≠ 0 →
      perform (.writeReg n v) s = .refused .partialRegisterAccess ∧
      perform (.readReg n) s = .refused .partialRegisterAccess)

/-- 70_reset_and_hazards.md R341 in the model's host queue (log 2): when the host's next action is a `GO` write and `CMD`
decodes to `i`, the step is `exec i`, and the queue has moved on; a `PACK` that breaks a `require` has no step and is refused
(41_line_codec.md R172, 60_exceptions.md R286, log 5), also where a reset would abandon it; every other action is performed;
a reset in the queue touches none of the model's own fields (log 16); with no action the machine is idle. -/
def Obligations.StepRunsTheDecodedCommand : Prop :=
  (∀ (s : State) (v : Word) (rest : List HostAction) (i : Instr), s.pending = .writeReg 0x40 v :: rest → v &&& 1 = 1 →
    decode s.cmd = .ok i → WellFormed i →
      (¬ breaksRequire i s → step s = exec i { s with pending := rest }) ∧
      (breaksRequire i s → step s = .refused .oversizeSample)) ∧
    (∀ (s : State) (rest : List HostAction) (i : Instr), s.pending = .goThenReset :: rest → decode s.cmd = .ok i →
      breaksRequire i s → step s = .refused .oversizeSample) ∧
    (∀ (s : State) (action : HostAction) (rest : List HostAction), s.pending = action :: rest →
      (∀ i, decode s.cmd = .ok i → ¬ breaksRequire i s) ∨ (action ≠ .goThenReset ∧ ∀ v, action ≠ .writeReg 0x40 v) →
      step s = perform action { s with pending := rest }) ∧
    (∀ (s : State) (rest : List HostAction), s.pending = .reset :: rest → ∃ t, step s = .next t ∧ t.mem = s.mem ∧
      t.params = s.params ∧ t.unbacked = s.unbacked ∧ t.pending = rest ∧ t.seen = s.seen ∧ t.drawn = s.drawn) ∧
    ∀ s : State, s.pending = [] → step s = .next s

/-- The interface's `withFetchWord` (log 2): the very next step runs the instruction the decoder reads from the word, or
refuses it where it is a `PACK` that breaks a `require` (41_line_codec.md R172, log 5). -/
def Obligations.PlacedWordRuns : Prop :=
  ∀ (s : State) (nbits w : Nat) (i : Instr), decodeTableWord nbits w = some i →
    (¬ breaksRequire i s → step (s.withFetchWord nbits w) = exec i { s with cmd := tableCommand nbits w }) ∧
    (breaksRequire i s → step (s.withFetchWord nbits w) = .refused .oversizeSample)

/-! ## Every operation -/

/-- 20_memory.md R50, 10_state.md R24, 60_exceptions.md R280: every step keeps memory canonical, `STATUS` legal, and the
results of a failure zero. -/
def Obligations.StepKeepsInvariant : Prop := ∀ s t : State, StateInv s → step s = .next t → StateInv t

/-- The invariant holds after reset. -/
def Obligations.ResetMeetsInvariant : Prop := StateInv State.reset

/-- 60_exceptions.md R280, R281, R288: after an operation that fails, `STATUS` is one of the failure values, every result
word is zero, and nothing else has changed, memory least of all. -/
def Obligations.FailureLeavesMemoryUnchanged : Prop :=
  ∀ (i : Instr) (s t : State), exec i s = .next t → failBit t.status = true →
    t = { s with status := t.status, res := .replicate 12 0 } ∧
    t.status ∈ [0x013#32, 0x023#32, 0x033#32, 0x043#32, 0x0F3#32, 0x313#32] ∧
    (t.status = 0x313 → ∃ fmt vm v, i = .cmpv fmt vm v)

/-- 10_state.md R24: the fields of `STATUS` after every operation. -/
def Obligations.StatusFields : Prop :=
  ∀ (i : Instr) (s t : State), exec i s = .next t →
    doneBit t.status = true ∧ field t.status 3 2 = 0 ∧ field t.status 31 11 = 0 ∧
    (failBit t.status = false → errField t.status = 0) ∧
    (failBit t.status = true → errField t.status ∈ [1, 2, 3, 4, 15]) ∧
    ((∀ fmt vm v, i ≠ .cmpv fmt vm v) → cmpField t.status = 0) ∧
    ((∀ fmt vm r, i ≠ .desc fmt vm r) → validBit t.status = false)

/-- 10_state.md R21, 20_memory.md R51: no operation writes `CMD`, and none changes what only the host or the platform has. -/
def Obligations.OperationsKeepCommand : Prop :=
  ∀ (i : Instr) (s t : State), exec i s = .next t →
    t.cmd = s.cmd ∧ t.params = s.params ∧ t.unbacked = s.unbacked ∧ t.pending = s.pending ∧ t.seen = s.seen

/-- 10_state.md R28: an operation's outcome is a function of the command, of memory and of the parameters; of the model's
own fields it reads which addresses have memory behind them (log 7) and the count of free values (log 10). -/
def Obligations.OutcomeIsAFunctionOfMemory : Prop :=
  ∀ (i : Instr) (s u : State), s.mem = u.mem → s.params = u.params → s.unbacked = u.unbacked → s.drawn = u.drawn →
    (∀ t, exec i s = .next t → ∃ w, exec i u = .next w ∧ w.status = t.status ∧ w.res = t.res ∧ w.mem = t.mem) ∧
    (∀ f, exec i s = .fault f → exec i u = .fault f) ∧ ∀ r, exec i s = .refused r → exec i u = .refused r

/-- The model's stops of a meaning (logs 5, 6 and 7; 20_memory.md R59, R68): a meaning stops in no other way, with memory
behind every address only by an overlap, and `GEOM` and `DESC` never. That the meaning of a `PACK` of a sample wider than
its field is not among the stops is the model's choice of log 5; 41_line_codec.md R172, 60_exceptions.md R286 and
93_implementation_defined.md U1 have a model refuse it, which the machine's step does (`StepRunsTheDecodedCommand`). -/
def Obligations.NothingElseStops : Prop :=
  (∀ (i : Instr) (s : State),
    (∃ t, exec i s = .next t) ∨ exec i s = .refused .overlappingBuffers ∨
      (exec i s = .fault .unbackedMemory ∧ s.unbacked ≠ [])) ∧
    ∀ (fmt : PixelFormat) (vm : Bool) (r : RasterSize) (s : State),
      (∃ t, exec (.geom fmt) s = .next t) ∧ ∃ t, exec (.desc fmt vm r) s = .next t

/-- The two stops of every operation that touches memory, where its checks pass (logs 6 and 7; 20_memory.md R59, R68): a
written range over a read one is refused, and otherwise a range with no memory behind it faults; `CMPV` writes nothing and
only faults; a `BLIT` clipped to nothing touches nothing and does not stop. -/
def Obligations.OverlapAndUnbackedStop : Prop :=
  let stops := fun (i : Instr) (s : State) (src dst : Range) =>
    (dst.overlaps src → exec i s = .refused .overlappingBuffers) ∧
    (¬ dst.overlaps src → ¬ (isBacked s src ∧ isBacked s dst) → exec i s = .fault .unbackedMemory)
  ∀ s : State,
    (∀ p ∈ codecPairs, ∀ a, linePasses p.fmt p.gB p.gC p.gP a →
      stops (p.unpack a) s (packedRange p.gB p.gP a) (compRange p.gC p.gP a) ∧
      stops (p.pack a) s (compRange p.gC p.gP a) (packedRange p.gB p.gP a)) ∧
    (∀ (a4 : Bool) (b : LinePair), b.srcAddr ≠ 0 → b.dstAddr ≠ 0 →
      let pairs := b.pixelCount / 2
      let rgb := 4 * (3 + a4.toNat) * pairs
      let cells := 2 * ((3 + a4.toNat) * b.pixelCount)
      (cscPasses 2 (8 * pairs) rgb b → ∀ sd sr al dep,
        stops (.cscY2R sd sr al a4 dep b) s ⟨b.srcAddr, 8 * pairs⟩ ⟨b.dstAddr, rgb⟩) ∧
      (cscPasses 2 rgb (8 * pairs) b → ∀ sd sr dep,
        stops (.cscR2Y sd sr a4 dep b) s ⟨b.srcAddr, rgb⟩ ⟨b.dstAddr, 8 * pairs⟩) ∧
      (cscPasses 1 cells cells b → ∀ dep dep2,
        stops (.cscRDepth a4 dep dep2 b) s ⟨b.srcAddr, cells⟩ ⟨b.dstAddr, cells⟩)) ∧
    (∀ q a, QuadPasses a →
      stops (.qsplit q a) s ⟨a.fullAddr, a.fullPitch * a.fullHeight⟩ ⟨a.quadAddr, a.fullPitch / 2 * (a.fullHeight / 2)⟩ ∧
      stops (.qmerge q a) s ⟨a.quadAddr, a.fullPitch / 2 * (a.fullHeight / 2)⟩
        ⟨a.fullAddr, a.fullPitch * a.fullHeight⟩) ∧
    (∀ (fmt : PixelFormat) (vm : Bool) (v : ViewArgs),
      let d := mkDesc fmt v.size vm
      v.aAddr ≠ 0 → v.bAddr ≠ 0 → isModelled fmt → viewGeometryPasses fmt d →
      d.totalBytes ≤ v.aLen ∧ v.aAddr + v.aLen ≤ 2 ^ 32 →
      (2 * slotCount fmt d ≤ v.bLen ∧ v.bAddr + v.bLen ≤ 2 ^ 32 →
        stops (.view fmt vm v) s ⟨v.aAddr, d.totalBytes⟩ ⟨v.bAddr, 2 * slotCount fmt d⟩) ∧
      (d.totalBytes ≤ v.bLen ∧ v.bAddr + v.bLen ≤ 2 ^ 32 →
        ¬ (isBacked s ⟨v.aAddr, d.totalBytes⟩ ∧ isBacked s ⟨v.bAddr, d.totalBytes⟩) →
        exec (.cmpv fmt vm v) s = .fault .unbackedMemory)) ∧
    ∀ (fmt : PixelFormat) (gB gP : Nat) (b : BlitArgs), granularity fmt = some (gB, gP) →
      (b.srcAddr ≠ 0 ∧ b.dstAddr ≠ 0) ∧ b.srcAddr ≠ b.dstAddr →
      b.srcPitch ≠ 0 ∧ b.dstPitch ≠ 0 ∧ b.srcHeight ≠ 0 ∧ b.dstHeight ≠ 0 →
      b.srcX % gP = 0 ∧ b.rectW % gP = 0 ∧ b.dstX % gP = 0 →
      b.srcAddr + b.srcPitch * b.srcHeight ≤ 2 ^ 32 ∧ b.dstAddr + b.dstPitch * b.dstHeight ≤ 2 ^ 32 →
      (blitRowBytes gB gP b ≠ 0 ∧ clipHeight b ≠ 0 →
        stops (.blit fmt b) s ⟨b.srcAddr, b.srcPitch * b.srcHeight⟩ ⟨b.dstAddr, b.dstPitch * b.dstHeight⟩) ∧
      (blitRowBytes gB gP b = 0 ∨ clipHeight b = 0 → ∃ t, exec (.blit fmt b) s = .next t)

/-- 70_reset_and_hazards.md R310: a reset in flight leaves the registers of reset and, in every byte of memory, what was
there before or what the operation would have left (the number of writes done is free: log 9). -/
def Obligations.AbandonedOperation : Prop :=
  ∀ s t u : State, Memory.wf s.mem → perform (.writeReg 0x40 1) s = .next u → perform .goThenReset s = .next t →
    (∀ i : Fin 16, t.cmd[i] = 0) ∧ t.status = 0 ∧ (∀ i : Fin 12, t.res[i] = 0) ∧
    (t.params = s.params ∧ t.unbacked = s.unbacked ∧ t.pending = s.pending ∧ t.seen = s.seen) ∧
    ∀ x, memByte t.mem x = memByte s.mem x ∨ memByte t.mem x = memByte u.mem x

/-! ## Catalog and descriptor -/

/-- 40_catalog_descriptor.md R121, R122: `GEOM` of each of the 64 codes, which completes in every state. -/
def Obligations.Geom : Prop :=
  ∀ n < 64, ∀ s : State, exec (.geom (formatOfCode n)) s = .next { s with
    status := 0x001
    res := resultWords
      ([[16, 12, 6, 1], [16, 12, 6, 1], [4, 4, 2, 1], [3, 3, 1, 1], [4, 4, 1, 1], [6, 3, 1, 1], [4, 4, 1, 1],
        [4, 4, 1, 1], [0, 0, 0, 0], [20, 16, 16, 2], [4, 4, 2, 3], [4, 4, 2, 3]].getD n [0, 0, 0, 0]) }

/-- 40_catalog_descriptor.md R129: `DESC` completes in every state, with the descriptor's fields in `RES` and its validity in
`VALID`, or, where a field is 2^32 or more, with `BadGeometry`. -/
def Obligations.Desc : Prop :=
  ∀ (fmt : PixelFormat) (vm : Bool) (r : RasterSize) (s : State),
    let d := mkDesc fmt r vm
    let fields := [d.rasterWidth, d.fullRasterHeight, d.activeHeight, d.planeCount, d.firstActiveLine, d.pitch0, d.pitch1,
      d.pitch2, d.lines0, d.lines1, d.lines2, d.totalBytes]
    ((∃ v ∈ fields, 2 ^ 32 ≤ v) → exec (.desc fmt vm r) s = .next (failedWith s 3)) ∧
    ((∀ v ∈ fields, v < 2 ^ 32) → exec (.desc fmt vm r) s = .next { s with
      status := if d.valid then 0x401 else 0x001
      res := resultWords [d.rasterWidth, d.fullRasterHeight, d.activeHeight, d.planeCount, d.firstActiveLine, d.pitch0,
        d.pitch1, d.pitch2, d.totalBytes, d.lines1, d.lines2] })

/-- 40_catalog_descriptor.md R124 to R128: the fields of a descriptor, for each of the 64 codes. -/
def Obligations.DescriptorFields : Prop :=
  ∀ n < 64, ∀ (r : RasterSize) (vm : Bool),
    let d := mkDesc (formatOfCode n) r vm
    let w := r.width
    let H := d.fullRasterHeight
    (d.rasterWidth = w ∧ d.activeHeight = r.activeHeight ∧ H = (if vm then r.activeHeight + r.vancLines else r.activeHeight) ∧
      d.firstActiveLine = (if vm then r.vancLines else 0)) ∧
    d.planeCount = [1, 1, 1, 1, 1, 1, 1, 1, 0, 2, 3, 3].getD n 0 ∧
    d.pitch0 = [(w + 47) / 48 * 128, (w + 47) / 48 * 128, 2 * w, 3 * w, 4 * w, 6 * w, 4 * w, 4 * w, 0, 20 * w / 16,
      2 * (w / 2), 2 * (w / 2)].getD n 0 ∧
    d.pitch1 = (if n = 9 then d.pitch0 else if n = 10 ∨ n = 11 then w / 2 else 0) ∧
    d.pitch2 = (if n = 10 ∨ n = 11 then w / 2 else 0) ∧
    d.lines0 = (if n < 8 ∨ n = 9 ∨ n = 10 ∨ n = 11 then H else 0) ∧
    d.lines1 = (if n = 9 ∨ n = 11 then H / 2 else if n = 10 then H else 0) ∧
    d.lines2 = (if n = 11 then H / 2 else if n = 10 then H else 0) ∧
    d.totalBytes = d.pitch0 * d.lines0 + d.pitch1 * d.lines1 + d.pitch2 * d.lines2 ∧
    (d.valid = true ↔ (n < 8 ∨ n = 9 ∨ n = 10 ∨ n = 11) ∧ 0 < d.pitch0 ∧ 0 < H ∧ (n = 9 ∨ n = 11 → H % 2 = 0))

/-- 40_catalog_descriptor.md R131: the row-byte formula never falls as the width grows, and is 0 only for width 0, for an
unmodelled format, and for the two 3-plane formats at width 1; and the document's three numbers. -/
def Obligations.RowBytesMonotone : Prop :=
  (∀ n < 64, ∀ w w', w ≤ w' → rowPitch0 (formatOfCode n) w ≤ rowPitch0 (formatOfCode n) w') ∧
    (∀ n < 64, n < 8 ∨ n = 9 → ∀ w, rowPitch0 (formatOfCode n) w = 0 ↔ w = 0) ∧
    (∀ n < 64, n = 10 ∨ n = 11 → ∀ w, rowPitch0 (formatOfCode n) w = 0 ↔ w ≤ 1) ∧
    (∀ n < 64, n = 8 ∨ 12 ≤ n → ∀ w, rowPitch0 (formatOfCode n) w = 0) ∧
    rowPitch0 .y8p 1920 = 3840 ∧ rowPitch0 .rgb24 1920 = 5760 ∧ rowPitch0 .y10p 1920 = 5120

/-- 40_catalog_descriptor.md R130: which pitches are a multiple of the element's bytes; the view operations check it and
`DESC` does not. -/
def Obligations.PitchInvariant : Prop :=
  (∀ n < 8, n ≠ 2 → ∀ w, rowPitch0 (formatOfCode n) w % (elementGeometry (formatOfCode n)).bytesPerElement = 0) ∧
    (∀ w, rowPitch0 .y8p w % 4 = 0 ↔ w % 2 = 0) ∧
    ∀ (vm : Bool) (v : ViewArgs) (s : State), v.aAddr ≠ 0 → v.bAddr ≠ 0 → v.size.width % 2 = 1 →
      exec (.view .y8p vm v) s = .next (failedWith s 3) ∧ exec (.cmpv .y8p vm v) s = .next (failedWith s 3) ∧
      ((∀ x ∈ descriptorFields (mkDesc .y8p v.size vm), x < 2 ^ 32) →
        ∃ t, exec (.desc .y8p vm v.size) s = .next t ∧ failBit t.status = false)

/-! ## Line codec -/

/-- 41_line_codec.md R171: the 110 rows without a codec pass the null check and then fail with `UnsupportedFormat`; that is
how each of them completes, in every state. -/
def Obligations.RowsWithoutCodec : Prop :=
  ∀ make ∈ uncodedRows, ∀ (a : LineArgs) (s : State),
    (a.packedAddr = 0 ∨ a.compAddr = 0 → exec (make a) s = .next (failedWith s 2)) ∧
    (a.packedAddr ≠ 0 → a.compAddr ≠ 0 → exec (make a) s = .next (failedWith s 1))

/-- 41_line_codec.md R153, R155: three ten-bit fields of each 32-bit word, in ascending offset order. -/
def Obligations.UnpackTenBit422 : Prop :=
  (UnpacksTo .unpackY10P 0x0010 .y10p 16 12 6 fun a s i =>
    memRead s.mem (a.packedAddr + 4 * (i / 3)) 4 >>> (10 * (i % 3)) &&& 0x3FF) ∧
  UnpacksTo .unpackY10P_BE 0x0110 .y10pBE 16 12 6 fun a s i =>
    memReadBE s.mem (a.packedAddr + 4 * (i / 3)) 4 >>> (10 * (i % 3)) &&& 0x3FF

/-- 41_line_codec.md R157, R159, R161, R163: each byte, or in `RGB48` each 16-bit sample, is one component. -/
def Obligations.UnpackWholeSamples : Prop :=
  (UnpacksTo .unpackY8P 0x0210 .y8p 4 4 2 fun a s i => memRead s.mem (a.packedAddr + i) 1) ∧
  (UnpacksTo .unpackRGB24 0x0310 .rgb24 3 3 1 fun a s i => memRead s.mem (a.packedAddr + i) 1) ∧
  (UnpacksTo .unpackRGBA32 0x0410 .rgba32 4 4 1 fun a s i => memRead s.mem (a.packedAddr + i) 1) ∧
  UnpacksTo .unpackRGB48 0x0510 .rgb48 6 3 1 fun a s i => memRead s.mem (a.packedAddr + 2 * i) 2

/-- 41_line_codec.md R165, R167: R, G, B, A of each 32-bit word. -/
def Obligations.UnpackTenBitRgb : Prop :=
  let component := fun (w i : Nat) =>
    if i % 4 = 0 then w >>> 22 &&& 0x3FF else if i % 4 = 1 then w >>> 12 &&& 0x3FF
    else if i % 4 = 2 then w >>> 2 &&& 0x3FF else w &&& 0x3
  (UnpacksTo .unpackRGB10P 0x0610 .rgb10p 4 4 1 fun a s i => component (memRead s.mem (a.packedAddr + 4 * (i / 4)) 4) i) ∧
  UnpacksTo .unpackRGB10P_BE 0x0710 .rgb10pBE 4 4 1 fun a s i =>
    component (memReadBE s.mem (a.packedAddr + 4 * (i / 4)) 4) i

/-- 41_line_codec.md R169, R170: sixteen samples of each 20-byte group through the layout parameter, which by default is the
least-significant-bit-first bit stream and whatever it is gives values below 1024. -/
def Obligations.UnpackTwoPlane : Prop :=
  (UnpacksTo .unpackY10_420_PL2 0x0910 .y10_420pl2 20 16 16 fun a s i =>
    (groupPL2 s.params.layout s.mem (a.packedAddr + 20 * (i / 16))).getD (i % 16) 0) ∧
  (∀ (m : Memory) (base j : Nat), j < 16 →
    (groupPL2 .standard m base).getD j 0 = memRead m base 20 >>> (10 * j) &&& 0x3FF) ∧
  ∀ (layout : ParamChoice) (m : Memory) (base j : Nat), (groupPL2 layout m base).getD j 0 < 1024

/-- 41_line_codec.md R154, R156: three ten-bit components OR-ed into each 32-bit word, bits 31:30 zero. -/
def Obligations.PackTenBit422 : Prop :=
  let word := fun (a : LineArgs) (s : State) (i : Nat) =>
    compCell s a (3 * i) ||| compCell s a (3 * i + 1) <<< 10 ||| compCell s a (3 * i + 2) <<< 20
  (PacksTo .packY10P 0x0011 .y10p 16 12 6 (fun _ => 0x3FF) fun a s t =>
    ∀ i < 4 * (a.pixelCount / 6), memRead t.mem (a.packedAddr + 4 * i) 4 = word a s i) ∧
  PacksTo .packY10P_BE 0x0111 .y10pBE 16 12 6 (fun _ => 0x3FF) fun a s t =>
    ∀ i < 4 * (a.pixelCount / 6), memReadBE t.mem (a.packedAddr + 4 * i) 4 = word a s i

/-- 41_line_codec.md R158, R160, R162, R164: each component is one byte, or in `RGB48`, where every cell fits, one 16-bit
sample. -/
def Obligations.PackWholeSamples : Prop :=
  (PacksTo .packY8P 0x0211 .y8p 4 4 2 (fun _ => 0xFF) fun a s t =>
    ∀ i < 4 * (a.pixelCount / 2), memRead t.mem (a.packedAddr + i) 1 = compCell s a i) ∧
  (PacksTo .packRGB24 0x0311 .rgb24 3 3 1 (fun _ => 0xFF) fun a s t =>
    ∀ i < 3 * a.pixelCount, memRead t.mem (a.packedAddr + i) 1 = compCell s a i) ∧
  (PacksTo .packRGBA32 0x0411 .rgba32 4 4 1 (fun _ => 0xFF) fun a s t =>
    ∀ i < 4 * a.pixelCount, memRead t.mem (a.packedAddr + i) 1 = compCell s a i) ∧
  PacksTo .packRGB48 0x0511 .rgb48 6 3 1 (fun _ => 0xFFFF) fun a s t =>
    ∀ i < 3 * a.pixelCount, memRead t.mem (a.packedAddr + 2 * i) 2 = compCell s a i

/-- 41_line_codec.md R166, R168: R, G, B, A OR-ed into each 32-bit word. -/
def Obligations.PackTenBitRgb : Prop :=
  let maximum := fun (j : Nat) => if j = 3 then 0x3 else 0x3FF
  let word := fun (a : LineArgs) (s : State) (i : Nat) =>
    compCell s a (4 * i) <<< 22 ||| compCell s a (4 * i + 1) <<< 12 ||| compCell s a (4 * i + 2) <<< 2 |||
      compCell s a (4 * i + 3)
  (PacksTo .packRGB10P 0x0611 .rgb10p 4 4 1 maximum fun a s t =>
    ∀ i < a.pixelCount, memRead t.mem (a.packedAddr + 4 * i) 4 = word a s i) ∧
  PacksTo .packRGB10P_BE 0x0711 .rgb10pBE 4 4 1 maximum fun a s t =>
    ∀ i < a.pixelCount, memReadBE t.mem (a.packedAddr + 4 * i) 4 = word a s i

/-- 41_line_codec.md R176, R170: each 20-byte group is the one the layout parameter decodes to the sixteen components; by
default the bit stream. -/
def Obligations.PackTwoPlane : Prop :=
  PacksTo .packY10_420_PL2 0x0911 .y10_420pl2 20 16 16 (fun _ => 0x3FF) fun a s t =>
    ∀ k < a.pixelCount / 16,
      (∀ j < 16, (groupPL2 s.params.layout t.mem (a.packedAddr + 20 * k)).getD j 0 = compCell s a (16 * k + j)) ∧
      (s.params.layout = .standard → memRead t.mem (a.packedAddr + 20 * k) 20 =
        ((List.range 16).map fun j => compCell s a (16 * k + j) <<< (10 * j)).sum)

/-- The model's choice where 41_line_codec.md R172 leaves a group's bytes undefined (log 5): the meaning of a `PACK` (the
machine's step refuses it where a sample does not fit, as R172 asks) completes whatever its samples are, writes no byte outside the packed line, and a group whose samples fit is packed as if alone, whatever the
other groups hold: any other run with the same parameters whose group `k` is the same leaves the same bytes there. -/
def Obligations.PackCompletesOnAnySamples : Prop :=
  ∀ p ∈ codecPairs,
    ∀ (a : LineArgs) (s : State), Memory.wf s.mem → linePasses p.fmt p.gB p.gC p.gP a →
      premises s (compRange p.gC p.gP a) (packedRange p.gB p.gP a) →
      ∃ t, exec (p.pack a) s = .next t ∧ Ended s t 0x001 (.replicate 12 0) (inRange (packedRange p.gB p.gP a)) ∧
        ∀ u v : State, Memory.wf u.mem → u.params = s.params → exec (p.pack a) u = .next v →
          ∀ k < a.pixelCount / p.gP,
            (∀ j < p.gC, compCell s a (p.gC * k + j) ≤ p.maximum j ∧
              compCell u a (p.gC * k + j) = compCell s a (p.gC * k + j)) →
            ∀ j < p.gB, memByte t.mem (a.packedAddr + p.gB * k + j) = memByte v.mem (a.packedAddr + p.gB * k + j)

/-- 41_line_codec.md R173 (a): a component line that fits its fields, packed and then unpacked, into any usable component
line, is the same line; for all nine formats and every layout parameter. -/
def Obligations.UnpackOfPack : Prop :=
  ∀ p ∈ codecPairs,
    ∀ (a b : LineArgs) (s : State), Memory.wf s.mem →
      linePasses p.fmt p.gB p.gC p.gP a → linePasses p.fmt p.gB p.gC p.gP b →
      b.packedAddr = a.packedAddr → b.pixelCount = a.pixelCount →
      premises s (compRange p.gC p.gP a) (packedRange p.gB p.gP a) →
      premises s (packedRange p.gB p.gP b) (compRange p.gC p.gP b) →
      (∀ i < a.pixelCount / p.gP * p.gC, compCell s a i ≤ p.maximum (i % p.gC)) →
      ∃ t u, exec (p.pack a) s = .next t ∧ exec (p.unpack b) t = .next u ∧
        ∀ i < a.pixelCount / p.gP * p.gC, compCell u b i = compCell s a i

/-- 41_line_codec.md R173 (b), (c): a packed line, unpacked and then packed into any usable packed line, is the same line, for
`Y10P` and `Y10P_BE` exactly when bits 31:30 of every word are zero. -/
def Obligations.PackOfUnpack : Prop :=
  ∀ p ∈ codecPairs,
    ∀ (a b : LineArgs) (s : State), Memory.wf s.mem →
      linePasses p.fmt p.gB p.gC p.gP a → linePasses p.fmt p.gB p.gC p.gP b →
      b.compAddr = a.compAddr → b.pixelCount = a.pixelCount →
      premises s (packedRange p.gB p.gP a) (compRange p.gC p.gP a) →
      premises s (compRange p.gC p.gP b) (packedRange p.gB p.gP b) →
      ∃ t u, exec (p.unpack a) s = .next t ∧ exec (p.pack b) t = .next u ∧
        ((∀ j < a.pixelCount / p.gP * p.gB, memByte u.mem (b.packedAddr + j) = memByte s.mem (a.packedAddr + j)) ↔
          (p.fmt = .y10p → ∀ i < 4 * (a.pixelCount / 6), memRead s.mem (a.packedAddr + 4 * i) 4 < 2 ^ 30) ∧
          (p.fmt = .y10pBE → ∀ i < 4 * (a.pixelCount / 6), memReadBE s.mem (a.packedAddr + 4 * i) 4 < 2 ^ 30))

/-! ## Colour space converter -/

/-- 42_color_space.md R199 to R201, R204, R206: `CSC.Y2R`, for every kernel and alpha parameter. -/
def Obligations.YccToRgb : Prop :=
  ∀ (sd sr al a4 : Bool) (dep : Depth) (b : LinePair),
    let P := b.pixelCount / 2
    let S := 3 + a4.toNat
    ConvertsTo (.cscY2R sd sr al a4 dep b) b 2 (8 * P) (4 * S * P) fun s t => ∀ k < P,
      let cb := srcCell s b (4 * k)
      let y0 := srcCell s b (4 * k + 1)
      let cr := srcCell s b (4 * k + 2)
      let y1 := srcCell s b (4 * k + 3)
      let cb2 := if k + 1 < P then (cb + srcCell s b (4 * k + 4)) / 2 else cb
      let cr2 := if k + 1 < P then (cr + srcCell s b (4 * k + 6)) / 2 else cr
      pixelHolds s t al a4 dep b (S * (2 * k)) y0 (kernelY2R s.params.kernel sd sr y0 cb cr) ∧
        pixelHolds s t al a4 dep b (S * (2 * k + 1)) y1 (kernelY2R s.params.kernel sd sr y1 cb2 cr2)

/-- 42_color_space.md R202, R204, R206: `CSC.R2Y`, for every kernel. -/
def Obligations.RgbToYcc : Prop :=
  ∀ (sd sr a4 : Bool) (dep : Depth) (b : LinePair),
    let P := b.pixelCount / 2
    let S := 3 + a4.toNat
    ConvertsTo (.cscR2Y sd sr a4 dep b) b 2 (4 * S * P) (8 * P) fun s t => ∀ k < P,
      let ycc := fun p => kernelR2Y s.params.kernel sd sr (to10 (srcCell s b (S * p)) dep)
        (to10 (srcCell s b (S * p + 1)) dep) (to10 (srcCell s b (S * p + 2)) dep)
      dstCell t b (4 * k) = wrap16 (ycc (2 * k)).2.1 ∧ dstCell t b (4 * k + 1) = wrap16 (ycc (2 * k)).1 ∧
        dstCell t b (4 * k + 2) = wrap16 (ycc (2 * k)).2.2 ∧ dstCell t b (4 * k + 3) = wrap16 (ycc (2 * k + 1)).1

/-- 42_color_space.md R203, R204, R206: `CSC.RDEPTH`, with each pair of depths as its rule's corner cases give it. -/
def Obligations.DepthConversion : Prop :=
  (∀ (a4 : Bool) (dep dep2 : Depth) (b : LinePair),
    let n := (3 + a4.toNat) * b.pixelCount
    ConvertsTo (.cscRDepth a4 dep dep2 b) b 1 (2 * n) (2 * n) fun s t =>
      ∀ i < n, dstCell t b i = wrap16 (from10 (to10 (srcCell s b i) dep2) dep)) ∧
    ∀ v < 65536,
      wrap16 (from10 (to10 v .d8) .d8) = v ∧ wrap16 (from10 (to10 v .d10) .d10) = v ∧
      wrap16 (from10 (to10 v .d16) .d16) = v / 64 * 64 ∧ wrap16 (from10 (to10 v .d8) .d10) = 4 * v % 65536 ∧
      wrap16 (from10 (to10 v .d10) .d8) = v / 4 ∧ wrap16 (from10 (to10 v .d8) .d16) = 256 * v % 65536 ∧
      wrap16 (from10 (to10 v .d10) .d16) = 64 * v % 65536 ∧ wrap16 (from10 (to10 v .d16) .d10) = v / 64 ∧
      wrap16 (from10 (to10 v .d16) .d8) = v / 256

/-- 42_color_space.md R193 to R196, R200: the default kernel of each profile for all inputs, the numbers of R195 written
out, the default alpha of each depth, and the rules' examples, with black and white. -/
def Obligations.DefaultKernel : Prop :=
  let round := fun x : Int => (x + 32768) / 65536
  (∀ Y Cb Cr : Int,
    let y := Y - 64
    let u := Cb - 512
    let v := Cr - 512
    standardY2R true false Y Cb Cr = (0 + round (76533 * y + 104905 * v),
      0 + round (76533 * y - 25750 * u - 53435 * v), 0 + round (76533 * y + 132590 * u)) ∧
    standardY2R true true Y Cb Cr = (64 + round (65536 * y + 89831 * v),
      64 + round (65536 * y - 22050 * u - 45757 * v), 64 + round (65536 * y + 113538 * u)) ∧
    standardY2R false false Y Cb Cr = (0 + round (76533 * y + 117835 * v),
      0 + round (76533 * y - 14017 * u - 35027 * v), 0 + round (76533 * y + 138846 * u)) ∧
    standardY2R false true Y Cb Cr = (64 + round (65536 * y + 100902 * v),
      64 + round (65536 * y - 12002 * u - 29994 * v), 64 + round (65536 * y + 118894 * u))) ∧
    (∀ R G B : Int,
      standardR2Y true false R G B = (64 + round (16780 * R + 32942 * G + 6398 * B),
        512 + round (-9685 * R - 19015 * G + 28700 * B),
        512 + round (28700 * R - 24033 * G - 4667 * B)) ∧
      standardR2Y true true R G B = (64 + round (19595 * (R - 64) + 38470 * (G - 64) + 7471 * (B - 64)),
        512 + round (-11311 * (R - 64) - 22205 * (G - 64) + 33516 * (B - 64)),
        512 + round (33516 * (R - 64) - 28066 * (G - 64) - 5451 * (B - 64))) ∧
      standardR2Y false false R G B = (64 + round (11931 * R + 40136 * G + 4052 * B),
        512 + round (-6576 * R - 22124 * G + 28700 * B),
        512 + round (28700 * R - 26068 * G - 2632 * B)) ∧
      standardR2Y false true R G B = (64 + round (13933 * (R - 64) + 46871 * (G - 64) + 4732 * (B - 64)),
        512 + round (-7680 * (R - 64) - 25836 * (G - 64) + 33516 * (B - 64)),
        512 + round (33516 * (R - 64) - 30443 * (G - 64) - 3073 * (B - 64)))) ∧
    (kernelY2R .standard = standardY2R ∧ kernelR2Y .standard = standardR2Y) ∧
    (alphaDefault .standard .d8 = 0xFF ∧ alphaDefault .standard .d10 = 0x3FF ∧ alphaDefault .standard .d16 = 0xFFFF) ∧
    (standardY2R false false 940 512 512 = (1023, 1023, 1023) ∧ standardY2R false false 64 64 64 = (-806, 335, -949) ∧
      standardR2Y false false 1023 0 0 = (250, 409, 960) ∧ standardR2Y false true 940 64 64 = (250, 409, 960)) ∧
    ∀ sd : Bool, standardY2R sd false 64 512 512 = (0, 0, 0) ∧ standardY2R sd false 940 512 512 = (1023, 1023, 1023) ∧
      standardY2R sd true 64 512 512 = (64, 64, 64) ∧ standardY2R sd true 940 512 512 = (940, 940, 940) ∧
      standardR2Y sd false 0 0 0 = (64, 512, 512) ∧ standardR2Y sd true 940 940 940 = (940, 512, 512)

/-- 42_color_space.md R196: `rnd16` rounds to the nearest with ties upward, and with 16-bit inputs every sum of the default
kernel lies within 2^35. -/
def Obligations.DefaultKernelFits : Prop :=
  (∀ x : Int, 65536 * rnd16 x ≤ x + 32768 ∧ x + 32768 < 65536 * rnd16 x + 65536) ∧
    ∀ (sd sr : Bool) (p q r : Int), 0 ≤ p → p < 65536 → 0 ≤ q → q < 65536 → 0 ≤ r → r < 65536 →
      let k := kernelConstants sd sr
      let small := fun x : Int => -(2 ^ 35) ≤ x ∧ x ≤ 2 ^ 35
      (small (k.ky * (p - 64) + k.krv * (r - 512)) ∧
        small (k.ky * (p - 64) - k.kgu * (q - 512) - k.kgv * (r - 512)) ∧
        small (k.ky * (p - 64) + k.kbu * (q - 512))) ∧
      small (k.cyr * (p - k.off) + k.cyg * (q - k.off) + k.cyb * (r - k.off)) ∧
        small (-k.cur * (p - k.off) - k.cug * (q - k.off) + k.cub * (r - k.off)) ∧
        small (k.cvr * (p - k.off) - k.cvg * (q - k.off) - k.cvb * (r - k.off))

/-! ## Reader -/

/-- 43_component_reader.md R227 to R229, R231: the checks of `VIEW` and `CMPV`, in their order. -/
def Obligations.ReaderChecks : Prop :=
  ∀ (fmt : PixelFormat) (vm : Bool) (v : ViewArgs) (s : State),
    let d := mkDesc fmt v.size vm
    let fits := fun addr len need : Nat => need ≤ len ∧ addr + len ≤ 2 ^ 32
    (v.aAddr = 0 ∨ v.bAddr = 0 →
      exec (.view fmt vm v) s = .next (failedWith s 4) ∧ exec (.cmpv fmt vm v) s = .next (failedWith s 4)) ∧
    (v.aAddr ≠ 0 → v.bAddr ≠ 0 →
      (¬ isModelled fmt →
        exec (.view fmt vm v) s = .next (failedWith s 1) ∧
        exec (.cmpv fmt vm v) s = .next { s with status := 0x313, res := .replicate 12 0 }) ∧
      (isModelled fmt →
        (¬ viewGeometryPasses fmt d →
          exec (.view fmt vm v) s = .next (failedWith s 3) ∧ exec (.cmpv fmt vm v) s = .next (failedWith s 3)) ∧
        (viewGeometryPasses fmt d →
          (¬ (fits v.aAddr v.aLen d.totalBytes ∧ fits v.bAddr v.bLen (2 * slotCount fmt d)) →
            exec (.view fmt vm v) s = .next (failedWith s 2)) ∧
          (¬ (fits v.aAddr v.aLen d.totalBytes ∧ fits v.bAddr v.bLen d.totalBytes) →
            exec (.cmpv fmt vm v) s = .next (failedWith s 2)))))

/-- 43_component_reader.md R220, R227: where its checks pass `VIEW` completes, its result is the number of slots, it writes
exactly two bytes a slot, and slot `j` of element `e` of line `L` stands at its place. -/
def Obligations.ViewWritesTheSlots : Prop :=
  ∀ (fmt : PixelFormat) (vm : Bool) (v : ViewArgs) (s : State),
    let d := mkDesc fmt v.size vm
    let E := elementsPerLine fmt d
    let n := slotsPerElement fmt
    Memory.wf s.mem → ViewReady fmt d v s →
      ∃ t, exec (.view fmt vm v) s = .next t ∧
        Ended s t 0x001 (resultWords [d.fullRasterHeight * E * n]) (inRange ⟨v.bAddr, 2 * (d.fullRasterHeight * E * n)⟩) ∧
        t.drawn = s.drawn ∧
        ∀ L < d.fullRasterHeight, ∀ e < E, ∀ j < n,
          memRead t.mem (v.bAddr + 2 * ((L * E + e) * n + j)) 2 =
            (elementSlots s.params fmt d s.mem v.aAddr L e).getD j 0

/-- 43_component_reader.md R221: the elements of a line and the slots of an element, for each of the 64 codes. -/
def Obligations.ViewGeometry : Prop :=
  ∀ n < 64, ∀ (r : RasterSize) (vm : Bool),
    let fmt := formatOfCode n
    let d := mkDesc fmt r vm
    slotsPerElement fmt = [12, 12, 4, 3, 4, 3, 4, 4, 0, 32, 4, 4].getD n 0 ∧
    elementsPerLine fmt d =
      [d.pitch0 / 16, d.pitch0 / 16, d.pitch0 / 4, d.pitch0 / 3, d.pitch0 / 4, d.pitch0 / 6, d.pitch0 / 4, d.pitch0 / 4, 0,
        r.width / 16, r.width / 2, r.width / 2].getD n 0 ∧
    slotCount fmt d = d.fullRasterHeight * elementsPerLine fmt d * slotsPerElement fmt ∧
    ∀ (p : Params) (m : Memory) (addr L e : Nat), (elementSlots p fmt d m addr L e).length = slotsPerElement fmt

/-- 43_component_reader.md R222 to R224: the slots of an element of the single-plane formats. -/
def Obligations.PackedSlots : Prop :=
  ∀ (p : Params) (fmt : PixelFormat) (d : Descriptor) (m : Memory) (addr L e j : Nat),
    let slot := (elementSlots p fmt d m addr L e).getD j 0
    let base := fun gB => addr + L * d.pitch0 + e * gB
    (fmt = .y8p ∧ j < 4 → slot = memRead m (base 4 + j) 1) ∧
    (fmt = .rgb24 ∧ j < 3 → slot = memRead m (base 3 + j) 1) ∧
    (fmt = .rgba32 ∧ j < 4 → slot = memRead m (base 4 + j) 1) ∧
    (fmt = .rgb48 ∧ j < 3 → slot = memRead m (base 6 + 2 * j) 2) ∧
    (fmt = .y10p ∧ j < 12 → slot = memRead m (base 16 + 4 * (j / 3)) 4 >>> (10 * (j % 3)) &&& 0x3FF) ∧
    (fmt = .y10pBE ∧ j < 12 → slot = memReadBE m (base 16 + 4 * (j / 3)) 4 >>> (10 * (j % 3)) &&& 0x3FF) ∧
    (fmt = .rgb10p ∧ j < 4 → slot = (if j = 3 then memRead m (base 4) 4 % 4
      else memRead m (base 4) 4 / 2 ^ (22 - 10 * j) % 1024)) ∧
    (fmt = .rgb10pBE ∧ j < 4 → slot = (if j = 3 then memReadBE m (base 4) 4 % 4
      else memReadBE m (base 4) 4 / 2 ^ (22 - 10 * j) % 1024))

/-- 43_component_reader.md R225, R226: the slots of an element of the planar formats, Cb, Y, Cr, Y. -/
def Obligations.PlanarSlots : Prop :=
  ∀ (p : Params) (fmt : PixelFormat) (r : RasterSize) (vm : Bool) (m : Memory) (addr L e : Nat),
    let d := mkDesc fmt r vm
    let slots := elementSlots p fmt d m addr L e
    let H := d.fullRasterHeight
    (fmt = .y8_422pl3 ∨ fmt = .y8_420pl3 →
      let CL := if fmt = .y8_420pl3 then L / 2 else L
      let chromaLines := if fmt = .y8_420pl3 then H / 2 else H
      let plane1 := d.pitch0 * H
      let plane2 := d.pitch0 * H + d.pitch1 * chromaLines
      slots = [memRead m (addr + plane1 + CL * d.pitch1 + e) 1, memRead m (addr + L * d.pitch0 + 2 * e) 1,
        memRead m (addr + plane2 + CL * d.pitch1 + e) 1, memRead m (addr + L * d.pitch0 + 2 * e + 1) 1]) ∧
    (fmt = .y10_420pl2 → ∀ q < 8,
      let y := groupPL2 p.layout m (addr + L * d.pitch0 + 20 * e)
      let c := groupPL2 p.layout m (addr + d.pitch0 * H + L / 2 * d.pitch1 + 20 * e)
      slots.getD (4 * q) 0 = c.getD (2 * q) 0 ∧ slots.getD (4 * q + 1) 0 = y.getD (2 * q) 0 ∧
      slots.getD (4 * q + 2) 0 = c.getD (2 * q + 1) 0 ∧ slots.getD (4 * q + 3) 0 = y.getD (2 * q + 1) 0)

/-- 43_component_reader.md R229, R230: where its checks pass `CMPV` completes, changes `STATUS` and `RES` alone, and says
equal exactly when every slot that is not an alpha slot of the 10-bit packed-RGB family agrees, and not equal otherwise. -/
def Obligations.CompareViews : Prop :=
  ∀ (fmt : PixelFormat) (vm : Bool) (v : ViewArgs) (s : State),
    let d := mkDesc fmt v.size vm
    let agree := ∀ L < d.fullRasterHeight, ∀ e < elementsPerLine fmt d, ∀ j < slotsPerElement fmt,
      ¬ ((fmt = .rgb10p ∨ fmt = .rgb10pBE) ∧ j = 3) →
        (elementSlots s.params fmt d s.mem v.aAddr L e).getD j 0 = (elementSlots s.params fmt d s.mem v.bAddr L e).getD j 0
    CompareReady fmt d v s →
      (agree → exec (.cmpv fmt vm v) s = .next { s with status := 0x101, res := .replicate 12 0 }) ∧
      (¬ agree → exec (.cmpv fmt vm v) s = .next { s with status := 0x201, res := .replicate 12 0 })

/-- 43_component_reader.md R232 (a): a buffer compared with itself is equal, for every format and every layout parameter. -/
def Obligations.CompareIsReflexive : Prop :=
  ∀ (fmt : PixelFormat) (vm : Bool) (v : ViewArgs) (s : State), v.aAddr = v.bAddr → v.aLen = v.bLen →
    CompareReady fmt (mkDesc fmt v.size vm) v s →
    exec (.cmpv fmt vm v) s = .next { s with status := 0x101, res := .replicate 12 0 }

/-- 43_component_reader.md R230, R232 (b), (c): two 10-bit packed-RGB buffers are equal exactly when every pixel word agrees
under the mask 0xFFFFFFFC. -/
def Obligations.CompareIgnoresAlphaBits : Prop :=
  ∀ row ∈ ([(.rgb10p, fun m a => memRead m a 4), (.rgb10pBE, fun m a => memReadBE m a 4)] :
      List (PixelFormat × (Memory → Nat → Nat))),
    ∀ (vm : Bool) (v : ViewArgs) (s : State),
      let d := mkDesc row.1 v.size vm
      let agree := ∀ k < d.totalBytes / 4,
        row.2 s.mem (v.aAddr + 4 * k) &&& 0xFFFFFFFC = row.2 s.mem (v.bAddr + 4 * k) &&& 0xFFFFFFFC
      CompareReady row.1 d v s → ∃ t, exec (.cmpv row.1 vm v) s = .next t ∧
        (agree → t.status = 0x101) ∧ (¬ agree → t.status = 0x201)

/-- 43_component_reader.md R232 (d): for the formats in which every byte is in the view, two buffers are equal exactly when
the raster's bytes are; for the 10-bit 4:2:2 formats exactly when the words are but for their bits 31:30. -/
def Obligations.CompareIsByteEquality : Prop :=
  ∀ (fmt : PixelFormat) (vm : Bool) (v : ViewArgs) (s : State),
    let d := mkDesc fmt v.size vm
    CompareReady fmt d v s → ∃ t, exec (.cmpv fmt vm v) s = .next t ∧
      (fmt ∈ [.y8p, .rgb24, .rgba32, .rgb48, .y8_422pl3, .y8_420pl3] → (t.status = 0x101 ↔
        ∀ k < d.totalBytes, memByte s.mem (v.aAddr + k) = memByte s.mem (v.bAddr + k))) ∧
      (fmt = .y10p → (t.status = 0x101 ↔ ∀ k < d.totalBytes / 4,
        memRead s.mem (v.aAddr + 4 * k) 4 % 2 ^ 30 = memRead s.mem (v.bAddr + 4 * k) 4 % 2 ^ 30)) ∧
      (fmt = .y10pBE → (t.status = 0x101 ↔ ∀ k < d.totalBytes / 4,
        memReadBE s.mem (v.aAddr + 4 * k) 4 % 2 ^ 30 = memReadBE s.mem (v.bAddr + 4 * k) 4 % 2 ^ 30))

/-- 43_component_reader.md R232 (d): for `Y10_420_PL2` two buffers are equal exactly when the bytes of the whole groups of
every luma line and every chroma line are, for every layout parameter. -/
def Obligations.CompareTwoPlaneIsByteEquality : Prop :=
  ∀ (vm : Bool) (v : ViewArgs) (s : State),
    let d := mkDesc .y10_420pl2 v.size vm
    let lineBytes := 20 * (v.size.width / 16)
    let same := fun offset : Nat => memByte s.mem (v.aAddr + offset) = memByte s.mem (v.bAddr + offset)
    CompareReady .y10_420pl2 d v s → ∃ t, exec (.cmpv .y10_420pl2 vm v) s = .next t ∧ (t.status = 0x101 ↔
      (∀ L < d.fullRasterHeight, ∀ k < lineBytes, same (L * d.pitch0 + k)) ∧
      ∀ C < d.fullRasterHeight / 2, ∀ k < lineBytes, same (d.pitch0 * d.fullRasterHeight + C * d.pitch1 + k))

/-! ## Raster transforms -/

/-- 44_raster_transforms.md R251, R252: which formats have a granularity, and the checks of `BLIT` in their order. -/
def Obligations.BlitChecks : Prop :=
  (∀ n < 64, granularity (formatOfCode n) =
    ([some (16, 6), some (16, 6), some (4, 2), some (3, 1), some (4, 1), some (6, 1), some (4, 1), some (4, 1), none,
      some (20, 16)] : List (Option (Nat × Nat))).getD n none) ∧
  ∀ (fmt : PixelFormat) (b : BlitArgs) (s : State),
    let fails := fun err => exec (.blit fmt b) s = .next (failedWith s err)
    (b.srcAddr = 0 ∨ b.dstAddr = 0 → fails 4) ∧
    (b.srcAddr ≠ 0 → b.dstAddr ≠ 0 →
      (granularity fmt = none → fails 1) ∧
      ∀ gB gP, granularity fmt = some (gB, gP) →
        let geometry := b.srcAddr ≠ b.dstAddr ∧
          (b.srcPitch ≠ 0 ∧ b.dstPitch ≠ 0 ∧ b.srcHeight ≠ 0 ∧ b.dstHeight ≠ 0) ∧
          b.srcX % gP = 0 ∧ b.rectW % gP = 0 ∧ b.dstX % gP = 0
        (¬ geometry → fails 3) ∧
        (geometry →
          ¬ (b.srcAddr + b.srcPitch * b.srcHeight ≤ 2 ^ 32 ∧ b.dstAddr + b.dstPitch * b.dstHeight ≤ 2 ^ 32) → fails 2))

/-- 44_raster_transforms.md R253, R254: where its checks pass `BLIT` completes, its results are the clipped width and height,
each row of the clipped rectangle is the source's row as it was, and no other byte changes. -/
def Obligations.BlitCopies : Prop :=
  ∀ (fmt : PixelFormat) (gB gP : Nat) (b : BlitArgs) (s : State), granularity fmt = some (gB, gP) → Memory.wf s.mem →
    BlitReady gP b s →
    let w := min b.rectW (min (b.srcPitch / gB * gP - b.srcX) (b.dstPitch / gB * gP - b.dstX))
    let h := min b.rectH (min (b.srcHeight - b.srcY) (b.dstHeight - b.dstY))
    let n := w / gP * gB
    ∃ t, exec (.blit fmt b) s = .next t ∧ Ended s t 0x001 (resultWords [w, h]) (blitStores gB gP b) ∧
      t.drawn = s.drawn ∧
      ∀ r < h, ∀ j < n,
        memByte t.mem (b.dstAddr + (b.dstY + r) * b.dstPitch + b.dstX / gP * gB + j) =
          memByte s.mem (b.srcAddr + (b.srcY + r) * b.srcPitch + b.srcX / gP * gB + j)

/-- 44_raster_transforms.md R255: a byte that a `BLIT` changes lies in a line of the destination raster, within the whole
pixels of its pitch. -/
def Obligations.BlitStaysInside : Prop :=
  ∀ (fmt : PixelFormat) (gB gP : Nat) (b : BlitArgs) (s t : State), granularity fmt = some (gB, gP) → Memory.wf s.mem →
    exec (.blit fmt b) s = .next t → ∀ x, memByte t.mem x ≠ memByte s.mem x →
      ∃ line < b.dstHeight, ∃ column < b.dstPitch / gB * gB,
        column < b.dstPitch ∧ x = b.dstAddr + line * b.dstPitch + column

/-- 44_raster_transforms.md R259: the checks of `QSPLIT` and `QMERGE`, in their order. -/
def Obligations.QuadChecks : Prop :=
  ∀ (q : Quadrant) (a : QuadArgs) (s : State),
    let fail := fun err => exec (.qsplit q a) s = .next (failedWith s err) ∧ exec (.qmerge q a) s = .next (failedWith s err)
    let geometry := a.fullAddr ≠ a.quadAddr ∧ (a.fullPitch ≠ 0 ∧ a.fullHeight ≠ 0) ∧
      (a.fullPitch % 2 = 0 ∧ a.fullHeight % 2 = 0) ∧ a.quad13Offset ≤ a.fullPitch / 2
    (a.fullAddr = 0 ∨ a.quadAddr = 0 → fail 4) ∧
    (a.fullAddr ≠ 0 → a.quadAddr ≠ 0 →
      (¬ geometry → fail 3) ∧
      (geometry →
        ¬ (a.fullAddr + a.fullPitch * a.fullHeight ≤ 2 ^ 32 ∧
          a.quadAddr + a.fullPitch / 2 * (a.fullHeight / 2) ≤ 2 ^ 32) → fail 2))

/-- 44_raster_transforms.md R256, R257: `QSPLIT` completes, row `r` of the quadrant image is that of the quadrant in the full
raster, and no byte outside the image changes. -/
def Obligations.QuadrantSplit : Prop :=
  ∀ (q : Quadrant) (a : QuadArgs) (s : State), Memory.wf s.mem →
    let qPitch := a.fullPitch / 2
    let qHeight := a.fullHeight / 2
    let origin := (if q = .lowerLeft ∨ q = .lowerRight then qHeight * a.fullPitch else 0) +
      (if q = .upperRight ∨ q = .lowerRight then qPitch - a.quad13Offset else 0)
    QuadReady a s ⟨a.fullAddr, a.fullPitch * a.fullHeight⟩ ⟨a.quadAddr, qPitch * qHeight⟩ →
    ∃ t, exec (.qsplit q a) s = .next t ∧
      Ended s t 0x001 (.replicate 12 0) (inRange ⟨a.quadAddr, qPitch * qHeight⟩) ∧ t.drawn = s.drawn ∧
      ∀ r < qHeight, ∀ j < qPitch,
        memByte t.mem (a.quadAddr + r * qPitch + j) = memByte s.mem (a.fullAddr + origin + r * a.fullPitch + j)

/-- 44_raster_transforms.md R256, R258: `QMERGE` completes, row `r` of the quadrant in the full raster is that of the
quadrant image, and no other byte changes. -/
def Obligations.QuadrantMerge : Prop :=
  ∀ (q : Quadrant) (a : QuadArgs) (s : State), Memory.wf s.mem →
    let qPitch := a.fullPitch / 2
    let qHeight := a.fullHeight / 2
    let origin := (if q = .lowerLeft ∨ q = .lowerRight then qHeight * a.fullPitch else 0) +
      (if q = .upperRight ∨ q = .lowerRight then qPitch - a.quad13Offset else 0)
    QuadReady a s ⟨a.quadAddr, qPitch * qHeight⟩ ⟨a.fullAddr, a.fullPitch * a.fullHeight⟩ →
    ∃ t, exec (.qmerge q a) s = .next t ∧ Ended s t 0x001 (.replicate 12 0) (mergeStores q a) ∧ t.drawn = s.drawn ∧
      ∀ r < qHeight, ∀ j < qPitch,
        memByte t.mem (a.fullAddr + origin + r * a.fullPitch + j) = memByte s.mem (a.quadAddr + r * qPitch + j)

/-- 44_raster_transforms.md R260: a quadrant image merged into any quadrant and split back out into another buffer is the
same image, with every legal correction. -/
def Obligations.MergeThenSplit : Prop :=
  ∀ (q : Quadrant) (a b : QuadArgs) (s : State), Memory.wf s.mem →
    let full : Range := ⟨a.fullAddr, a.fullPitch * a.fullHeight⟩
    let image : Range := ⟨a.quadAddr, a.fullPitch / 2 * (a.fullHeight / 2)⟩
    let copy : Range := ⟨b.quadAddr, a.fullPitch / 2 * (a.fullHeight / 2)⟩
    b = { a with quadAddr := b.quadAddr } → QuadReady a s image full → QuadReady b s full copy →
    ∃ t u, exec (.qmerge q a) s = .next t ∧ exec (.qsplit q b) t = .next u ∧
      ∀ j < a.fullPitch / 2 * (a.fullHeight / 2), memByte u.mem (b.quadAddr + j) = memByte s.mem (a.quadAddr + j)
end

