-- ==== Sys2Proof/Laws/State.lean ====
section
/-! SUPPORT. One lemma per field per update of the state, so that no proof unfolds a record update. -/

namespace Sys2Proof.Machine

variable (s : State) (code : FailCode) (cmp : Comparison) (status : Word) (res : Vector Word 12) (runs : List Run)
  (draws : Nat) (value : Word)

@[simp] theorem startOperation_cmd : (startOperation s).cmd = s.cmd := rfl
@[simp] theorem startOperation_status : (startOperation s).status = 0 := rfl
@[simp] theorem startOperation_res : (startOperation s).res = noResults := rfl
@[simp] theorem startOperation_mem : (startOperation s).mem = s.mem := rfl
@[simp] theorem startOperation_params : (startOperation s).params = s.params := rfl
@[simp] theorem startOperation_unbacked : (startOperation s).unbacked = s.unbacked := rfl
@[simp] theorem startOperation_pending : (startOperation s).pending = s.pending := rfl
@[simp] theorem startOperation_seen : (startOperation s).seen = s.seen := rfl
@[simp] theorem startOperation_drawn : (startOperation s).drawn = s.drawn := rfl

@[simp] theorem raiseFail_cmd : (raiseFail code cmp s).cmd = s.cmd := by rw [raiseFail]; exact rfl
@[simp] theorem raiseFail_status : (raiseFail code cmp s).status = statusFailed code cmp := rfl
@[simp] theorem raiseFail_res : (raiseFail code cmp s).res = noResults := rfl
@[simp] theorem raiseFail_mem : (raiseFail code cmp s).mem = s.mem := by rw [raiseFail]; exact rfl
@[simp] theorem raiseFail_params : (raiseFail code cmp s).params = s.params := by rw [raiseFail]; exact rfl
@[simp] theorem raiseFail_unbacked : (raiseFail code cmp s).unbacked = s.unbacked := by rw [raiseFail]; exact rfl
@[simp] theorem raiseFail_pending : (raiseFail code cmp s).pending = s.pending := by rw [raiseFail]; exact rfl
@[simp] theorem raiseFail_seen : (raiseFail code cmp s).seen = s.seen := by rw [raiseFail]; exact rfl
@[simp] theorem raiseFail_drawn : (raiseFail code cmp s).drawn = s.drawn := by rw [raiseFail]; exact rfl

@[simp] theorem succeed_cmd : (succeed status res runs draws s).cmd = s.cmd := rfl
@[simp] theorem succeed_status : (succeed status res runs draws s).status = status := rfl
@[simp] theorem succeed_res : (succeed status res runs draws s).res = res := rfl
@[simp] theorem succeed_mem : (succeed status res runs draws s).mem = storeRuns s.mem runs := rfl
@[simp] theorem succeed_params : (succeed status res runs draws s).params = s.params := rfl
@[simp] theorem succeed_unbacked : (succeed status res runs draws s).unbacked = s.unbacked := rfl
@[simp] theorem succeed_pending : (succeed status res runs draws s).pending = s.pending := rfl
@[simp] theorem succeed_seen : (succeed status res runs draws s).seen = s.seen := rfl
@[simp] theorem succeed_drawn : (succeed status res runs draws s).drawn = s.drawn + draws := rfl

@[simp] theorem resetRegisters_cmd : (resetRegisters s).cmd = .replicate 16 0 := rfl
@[simp] theorem resetRegisters_status : (resetRegisters s).status = 0 := rfl
@[simp] theorem resetRegisters_res : (resetRegisters s).res = .replicate 12 0 := rfl
@[simp] theorem resetRegisters_mem : (resetRegisters s).mem = s.mem := rfl
@[simp] theorem resetRegisters_params : (resetRegisters s).params = s.params := rfl
@[simp] theorem resetRegisters_unbacked : (resetRegisters s).unbacked = s.unbacked := rfl
@[simp] theorem resetRegisters_pending : (resetRegisters s).pending = s.pending := rfl
@[simp] theorem resetRegisters_seen : (resetRegisters s).seen = s.seen := rfl
@[simp] theorem resetRegisters_drawn : (resetRegisters s).drawn = s.drawn := rfl

@[simp] theorem observe_cmd : (observe s value).cmd = s.cmd := rfl
@[simp] theorem observe_status : (observe s value).status = s.status := rfl
@[simp] theorem observe_res : (observe s value).res = s.res := rfl
@[simp] theorem observe_mem : (observe s value).mem = s.mem := rfl
@[simp] theorem observe_params : (observe s value).params = s.params := rfl
@[simp] theorem observe_unbacked : (observe s value).unbacked = s.unbacked := rfl
@[simp] theorem observe_pending : (observe s value).pending = s.pending := rfl
@[simp] theorem observe_seen : (observe s value).seen = s.seen ++ [value] := rfl
@[simp] theorem observe_drawn : (observe s value).drawn = s.drawn := rfl

end Sys2Proof.Machine
end

