-- ==== Sys2Proof/Laws/Memory.lean ====
section
/-! SUPPORT. The laws of memory: read after write, what a write leaves alone, the canonical form and that it is unique. -/

namespace Sys2Proof.Machine

/-- Addresses rise strictly: the part of the canonical form that reading after writing rests on. -/
abbrev Rising (m : Memory) : Prop := m.Pairwise (fun x y => x.1 < y.1)

theorem rising_of_wf {m : Memory} (h : Memory.wf m) : Rising m := h.1

theorem memByte_of_below {m : Memory} {x : Nat} (h : ∀ c ∈ m, x < c.1) : memByte m x = Config.unlistedByte := by
  induction m with
  | nil => rfl
  | cons c rest ih =>
    obtain ⟨k, b⟩ := c
    have hk : x < k := h (k, b) (by simp)
    simp only [memByte, Nat.ne_of_gt hk, if_false]
    exact ih fun d hd => h d (by simp [hd])

theorem memStore_addresses {m : Memory} {a : Nat} {b : Byte} {c : Host.Cell} (h : c ∈ memStore m a b) :
    c ∈ m ∨ (c.1 = a ∧ c.2 = b ∧ b ≠ Config.unlistedByte) := by
  induction m with
  | nil =>
    by_cases hb : b = Config.unlistedByte <;> simp_all [memStore]
  | cons d rest ih =>
    obtain ⟨k, v⟩ := d
    simp only [memStore] at h
    split at h
    · split at h
      · exact .inl h
      · rcases List.mem_cons.1 h with rfl | h
        · exact .inr ⟨rfl, rfl, ‹_›⟩
        · exact .inl h
    · split at h
      · split at h
        · exact .inl (by simp [h])
        · rcases List.mem_cons.1 h with rfl | h
          · exact .inr ⟨rfl, rfl, ‹_›⟩
          · exact .inl (by simp [h])
      · rcases List.mem_cons.1 h with rfl | h
        · exact .inl (by simp)
        · rcases ih h with h | h
          · exact .inl (by simp [h])
          · exact .inr h

theorem memStore_rising {m : Memory} (h : Rising m) (a : Nat) (b : Byte) : Rising (memStore m a b) := by
  induction m with
  | nil => by_cases hb : b = Config.unlistedByte <;> simp [memStore, hb, Rising]
  | cons d rest ih =>
    obtain ⟨k, v⟩ := d
    obtain ⟨hk, hr⟩ := List.pairwise_cons.1 h
    simp only [memStore]
    split
    · rename_i hak
      split
      · exact h
      · refine List.pairwise_cons.2 ⟨fun c hc => ?_, h⟩
        rcases List.mem_cons.1 hc with rfl | hc
        · exact hak
        · exact Nat.lt_trans hak (hk c hc)
    · split
      · rename_i hak
        split
        · exact hr
        · exact List.pairwise_cons.2 ⟨fun c hc => by have := hk c hc; simp at this ⊢; omega, hr⟩
      · rename_i h1 h2
        refine List.pairwise_cons.2 ⟨fun c hc => ?_, ih hr⟩
        rcases memStore_addresses hc with hc | ⟨hc, -⟩
        · exact hk c hc
        · simp only; omega

/-- Every memory write keeps the canonical form. -/
theorem memStore_wf {m : Memory} (h : Memory.wf m) {a : Nat} (ha : a < 2 ^ 32) (b : Byte) :
    Memory.wf (memStore m a b) := by
  refine ⟨memStore_rising h.1 a b, fun c hc => ?_⟩
  rcases memStore_addresses hc with hc | ⟨h1, h2, h3⟩
  · exact h.2 c hc
  · exact ⟨h1 ▸ ha, h2 ▸ h3⟩

/-- Read after write. -/
theorem memByte_memStore {m : Memory} (h : Rising m) (a : Nat) (b : Byte) (x : Nat) :
    memByte (memStore m a b) x = if x = a then b else memByte m x := by
  induction m with
  | nil =>
    by_cases hb : b = Config.unlistedByte
    · by_cases hx : x = a <;> simp [memStore, hb, memByte, hx]
    · by_cases hx : x = a
      · simp [memStore, hb, memByte, hx]
      · simp [memStore, hb, memByte, hx, Ne.symm hx]
  | cons d rest ih =>
    obtain ⟨k, v⟩ := d
    obtain ⟨hk, hr⟩ := List.pairwise_cons.1 h
    simp only [memStore]
    split
    · rename_i hak
      split
      · rename_i hb
        by_cases hx : x = a
        · subst hx
          rw [if_pos rfl, hb]
          apply memByte_of_below
          intro c hc
          rcases List.mem_cons.1 hc with rfl | hc
          · exact hak
          · exact Nat.lt_trans hak (hk c hc)
        · simp [hx]
      · by_cases hx : x = a
        · subst hx; simp [memByte]
        · rw [if_neg hx, memByte, if_neg (Ne.symm hx)]
    · split
      · rename_i h1 hak
        subst hak
        split
        · rename_i hb
          by_cases hx : x = a
          · subst hx
            rw [if_pos rfl, hb]
            exact memByte_of_below hk
          · simp [memByte, hx, Ne.symm hx]
        · by_cases hx : x = a
          · subst hx; simp [memByte]
          · simp [memByte, hx, Ne.symm hx]
      · rename_i h1 h2
        by_cases hx : k = x
        · subst hx
          simp [memByte, Ne.symm h2]
        · simp only [memByte, hx, if_false]
          exact ih hr

theorem storeBytes_rising {m : Memory} (h : Rising m) (a : Nat) (bs : List Byte) : Rising (storeBytes m a bs) := by
  induction bs generalizing m a with
  | nil => exact h
  | cons b rest ih => exact ih (memStore_rising h a b) (a + 1)

theorem storeBytes_wf {m : Memory} (h : Memory.wf m) {a : Nat} {bs : List Byte} (ha : bs ≠ [] → a + bs.length ≤ 2 ^ 32) :
    Memory.wf (storeBytes m a bs) := by
  induction bs generalizing m a with
  | nil => exact h
  | cons b rest ih =>
    have := ha (by simp)
    simp only [List.length_cons] at this
    exact ih (memStore_wf h (by omega) b) (fun _ => by omega)

/-- What a byte reads as after a run of bytes is stored. -/
theorem memByte_storeBytes {m : Memory} (h : Rising m) (a : Nat) (bs : List Byte) (x : Nat) :
    memByte (storeBytes m a bs) x = if hx : a ≤ x ∧ x < a + bs.length then bs[x - a]'(by omega) else memByte m x := by
  induction bs generalizing m a with
  | nil =>
    have : ¬ (a ≤ x ∧ x < a + ([] : List Byte).length) := by simp
    rw [dif_neg this]; rfl
  | cons b rest ih =>
    rw [storeBytes, ih (memStore_rising h a b)]
    by_cases h1 : a + 1 ≤ x ∧ x < a + 1 + rest.length
    · have h2 : a ≤ x ∧ x < a + (b :: rest).length := by simp only [List.length_cons]; omega
      rw [dif_pos h1, dif_pos h2]
      have : x - a = (x - (a + 1)) + 1 := by omega
      simp [this]
    · rw [dif_neg h1, memByte_memStore h]
      by_cases hxa : x = a
      · subst hxa
        have h2 : x ≤ x ∧ x < x + (b :: rest).length := by simp only [List.length_cons]; omega
        rw [if_pos rfl, dif_pos h2]; simp
      · have h2 : ¬ (a ≤ x ∧ x < a + (b :: rest).length) := by simp only [List.length_cons]; omega
        rw [if_neg hxa, dif_neg h2]

theorem memByte_storeBytes_inside {m : Memory} (h : Rising m) (a : Nat) (bs : List Byte) (i : Nat) (hi : i < bs.length) :
    memByte (storeBytes m a bs) (a + i) = bs[i] := by
  rw [memByte_storeBytes h, dif_pos ⟨by omega, by omega⟩]
  simp

theorem memByte_storeBytes_outside {m : Memory} (h : Rising m) (a : Nat) (bs : List Byte) (x : Nat)
    (hx : x < a ∨ a + bs.length ≤ x) : memByte (storeBytes m a bs) x = memByte m x := by
  rw [memByte_storeBytes h, dif_neg (by omega)]

theorem storeRuns_rising {m : Memory} (h : Rising m) (runs : List Run) : Rising (storeRuns m runs) := by
  induction runs generalizing m with
  | nil => exact h
  | cons r rest ih => exact ih (storeBytes_rising h r.1 r.2)

theorem storeRuns_wf {m : Memory} (h : Memory.wf m) {runs : List Run}
    (hr : ∀ r ∈ runs, r.2 ≠ [] → r.1 + r.2.length ≤ 2 ^ 32) : Memory.wf (storeRuns m runs) := by
  induction runs generalizing m with
  | nil => exact h
  | cons r rest ih =>
    exact ih (storeBytes_wf h (hr r (by simp))) (fun q hq => hr q (by simp [hq]))

/-- A byte outside every run reads as before. -/
theorem memByte_storeRuns_outside {m : Memory} (h : Rising m) {runs : List Run} {x : Nat}
    (hx : ∀ r ∈ runs, x < r.1 ∨ r.1 + r.2.length ≤ x) : memByte (storeRuns m runs) x = memByte m x := by
  induction runs generalizing m with
  | nil => rfl
  | cons r rest ih =>
    rw [storeRuns, ih (storeBytes_rising h r.1 r.2) (fun q hq => hx q (by simp [hq])),
      memByte_storeBytes_outside h _ _ _ (hx r (by simp))]

/-- Runs that do not touch one another: a byte of one of them reads as that run stored it. -/
theorem memByte_storeRuns_inside {m : Memory} (h : Rising m) {runs : List Run}
    (hd : runs.Pairwise fun p q => p.1 + p.2.length ≤ q.1 ∨ q.1 + q.2.length ≤ p.1) {r : Run} (hr : r ∈ runs) {i : Nat}
    (hi : i < r.2.length) : memByte (storeRuns m runs) (r.1 + i) = r.2[i] := by
  induction runs generalizing m with
  | nil => simp at hr
  | cons q rest ih =>
    obtain ⟨hq, hrest⟩ := List.pairwise_cons.1 hd
    rcases List.mem_cons.1 hr with rfl | hr
    · rw [storeRuns, memByte_storeRuns_outside (storeBytes_rising h _ _), memByte_storeBytes_inside h _ _ _ hi]
      intro p hp
      have := hq p hp
      omega
    · exact ih (storeBytes_rising h _ _) hrest hr

theorem firstWrites_mem {n : Nat} {runs : List Run} {q : Run} (hq : q ∈ firstWrites n runs) :
    ∃ r ∈ runs, q.1 = r.1 ∧ ∃ k, q.2 = r.2.take k := by
  induction runs generalizing n with
  | nil => simp [firstWrites] at hq
  | cons r rest ih =>
    rcases List.mem_cons.1 hq with rfl | hq
    · exact ⟨r, by simp, rfl, n, rfl⟩
    · obtain ⟨p, hp, h⟩ := ih hq
      exact ⟨p, by simp [hp], h⟩

/-- The canonical form is unique: memories that read alike are the same data. -/
theorem memory_ext {m n : Memory} (hm : Memory.wf m) (hn : Memory.wf n) (h : ∀ x, memByte m x = memByte n x) : m = n := by
  induction m generalizing n with
  | nil =>
    cases n with
    | nil => rfl
    | cons d rest =>
      have := h d.1
      simp only [memByte, if_true] at this
      exact absurd this.symm (hn.2 d (by simp)).2
  | cons c rest ih =>
    obtain ⟨k, v⟩ := c
    cases n with
    | nil =>
      have := h k
      simp only [memByte, if_true] at this
      exact absurd this (hm.2 (k, v) (by simp)).2
    | cons d rest' =>
      obtain ⟨k', v'⟩ := d
      obtain ⟨hk, hr⟩ := List.pairwise_cons.1 hm.1
      obtain ⟨hk', hr'⟩ := List.pairwise_cons.1 hn.1
      have hkk : k = k' := by
        rcases Nat.lt_trichotomy k k' with hlt | heq | hgt
        · have h1 := h k
          rw [memByte, if_pos rfl, memByte_of_below] at h1
          · exact absurd h1 (hm.2 (k, v) (by simp)).2
          · intro c hc
            rcases List.mem_cons.1 hc with rfl | hc
            · exact hlt
            · exact Nat.lt_trans hlt (hk' c hc)
        · exact heq
        · have h1 := h k'
          symm at h1
          rw [memByte, if_pos rfl, memByte_of_below] at h1
          · exact absurd h1 (hn.2 (k', v') (by simp)).2
          · intro c hc
            rcases List.mem_cons.1 hc with rfl | hc
            · exact hgt
            · exact Nat.lt_trans hgt (hk c hc)
      subst hkk
      have hv : v = v' := by
        have := h k
        simpa [memByte] using this
      subst hv
      congr 1
      apply ih ⟨hr, fun c hc => hm.2 c (by simp [hc])⟩ ⟨hr', fun c hc => hn.2 c (by simp [hc])⟩
      intro x
      by_cases hx : k = x
      · subst hx
        rw [memByte_of_below hk, memByte_of_below hk']
      · have := h x
        simpa [memByte, hx] using this

theorem reset_memory_wf : Memory.wf State.reset.mem := by decide

end Sys2Proof.Machine
end

