-- ==== Sys2Proof/Laws/Bytes.lean ====
section
/-! SUPPORT. The laws of bytes: how long the byte forms of numbers, cells and groups are, which byte stands where, and what a
multi-byte read gives where those bytes lie. -/

namespace Sys2Proof.Machine

/-! ## Lists made of pieces of one length -/

/-- Every piece that stands at a member of the list has one length. -/
abbrev PiecesOfLength {α β : Type} (n : Nat) (f : α → List β) (xs : List α) : Prop := ∀ x ∈ xs, (f x).length = n

/-- Place `j` of piece `i` among `g` pieces of `n` places each. -/
theorem place_lt {n i j g : Nat} (hi : i < g) (hj : j < n) : n * i + j < n * g :=
  Nat.lt_of_lt_of_le (Nat.add_lt_add_left hj _) (Nat.mul_succ n i ▸ Nat.mul_le_mul_left n hi)

/-- Pieces of one length `n` laid end to end: the length. -/
theorem length_flatMap_of {α β : Type} {n : Nat} (f : α → List β) (xs : List α) (h : PiecesOfLength n f xs) :
    (xs.flatMap f).length = n * xs.length := by
  rw [List.length_flatMap, List.map_congr_left h, List.map_const', List.sum_replicate, smul_eq_mul, Nat.mul_comm]

/-- Leaving out whole pieces leaves out their length. -/
theorem drop_flatMap_of {α β : Type} {n : Nat} (f : α → List β) (xs : List α) (h : PiecesOfLength n f xs) (k : Nat) :
    (xs.flatMap f).drop (n * k) = (xs.drop k).flatMap f := by
  by_cases hk : k ≤ xs.length
  · conv_lhs => rw [← List.take_append_drop k xs, List.flatMap_append]
    refine List.drop_left' ?_
    rw [length_flatMap_of f _ fun x hx => h x (List.mem_of_mem_take hx), List.length_take, Nat.min_eq_left hk]
  · have hk := Nat.le_of_not_le hk
    rw [List.drop_eq_nil_of_le hk, List.drop_eq_nil_of_le (length_flatMap_of f xs h ▸ Nat.mul_le_mul_left n hk)]
    rfl

/-- Place `j` of piece `k`. -/
theorem getElem?_flatMap_of {α β : Type} {n : Nat} (f : α → List β) (xs : List α) (h : PiecesOfLength n f xs)
    {k j : Nat} (hj : j < n) (x : α) (hx : xs[k]? = some x) : (xs.flatMap f)[n * k + j]? = (f x)[j]? := by
  obtain ⟨hk, rfl⟩ := List.getElem?_eq_some_iff.1 hx
  rw [← List.getElem?_drop, drop_flatMap_of f xs h, List.drop_eq_getElem_cons hk, List.flatMap_cons,
    List.getElem?_append_left (by rw [h _ (List.getElem_mem hk)]; exact hj)]

section numbered
variable {α : Type} {n : Nat} (piece : Nat → List α)

/-- One piece a number: the length of the first `count` of them. -/
theorem length_flatMap_range (h : ∀ k, (piece k).length = n) (count : Nat) :
    ((List.range count).flatMap piece).length = n * count := by
  rw [length_flatMap_of piece _ fun k _ => h k, List.length_range]

/-- One piece a number: place `j` of piece `k`. -/
theorem getElem?_flatMap_range (h : ∀ k, (piece k).length = n) {count k j : Nat} (hk : k < count) (hj : j < n) :
    ((List.range count).flatMap piece)[n * k + j]? = (piece k)[j]? :=
  getElem?_flatMap_of piece _ (fun k _ => h k) hj k (List.getElem?_range hk)

end numbered

/-! ## The byte forms -/

@[simp] theorem bytesLE_length (n v : Nat) : (bytesLE n v).length = n := by simp [bytesLE]
@[simp] theorem bytesBE_length (n v : Nat) : (bytesBE n v).length = n := by simp [bytesBE]
@[simp] theorem memBytes_length (m : Memory) (a n : Nat) : (memBytes m a n).length = n := by simp [memBytes]
@[simp] theorem cellBytes_length (v : Nat) : (cellBytes v).length = 2 := by simp [cellBytes]

theorem cellsBytes_length (cells : List Nat) : (cellsBytes cells).length = 2 * cells.length :=
  length_flatMap_of _ _ fun _ _ => cellBytes_length _

theorem bytesLE_getElem? {n v i : Nat} (h : i < n) : (bytesLE n v)[i]? = some (.ofNat 8 (v >>> (8 * i))) := by
  simp [bytesLE, h]

theorem bytesBE_getElem? {n v i : Nat} (h : i < n) :
    (bytesBE n v)[i]? = some (.ofNat 8 (v >>> (8 * (n - 1 - i)))) := by
  simp [bytesBE, h]

theorem memBytes_getElem? {m : Memory} {a n i : Nat} (h : i < n) : (memBytes m a n)[i]? = some (memByte m (a + i)) := by
  simp [memBytes, h]

/-! ## Reads -/

/-- Bytes that agree from two places on: the first of them, and the rest from the next place on. -/
theorem bytesAgree_succ {m m' : Memory} {a a' n : Nat} :
    (∀ i < n + 1, memByte m (a + i) = memByte m' (a' + i)) ↔
      memByte m a = memByte m' a' ∧ ∀ i < n, memByte m (a + 1 + i) = memByte m' (a' + 1 + i) := by
  simp only [Nat.forall_lt_succ_left, Nat.add_zero, Nat.add_right_comm _ 1, Nat.add_assoc]

/-- Two memories that agree on the bytes read give the same number. -/
theorem memRead_congr {m m' : Memory} {a a' n : Nat} (h : ∀ i < n, memByte m (a + i) = memByte m' (a' + i)) :
    memRead m a n = memRead m' a' n := by
  induction n generalizing a a' with
  | zero => rfl
  | succ n ih => rw [memRead, memRead, (bytesAgree_succ.1 h).1, ih (bytesAgree_succ.1 h).2]

theorem memReadBE_congr {m m' : Memory} {a a' n : Nat} (h : ∀ i < n, memByte m (a + i) = memByte m' (a' + i)) :
    memReadBE m a n = memReadBE m' a' n := by
  induction n generalizing a a' with
  | zero => rfl
  | succ n ih => rw [memReadBE, memReadBE, (bytesAgree_succ.1 h).1, ih (bytesAgree_succ.1 h).2]

/-- One byte more is a factor of 256. -/
theorem byteWeight_succ (n : Nat) : 2 ^ (8 * (n + 1)) = 256 * 2 ^ (8 * n) := Nat.pow_add 2 (8 * n) 8 ▸ Nat.mul_comm ..

theorem memRead_lt (m : Memory) (a n : Nat) : memRead m a n < 2 ^ (8 * n) := by
  induction n generalizing a with
  | zero => exact Nat.one_pos
  | succ n ih =>
    have hr := ih (a + 1)
    have hb := (memByte m a).isLt
    rw [memRead, byteWeight_succ]
    omega

theorem memReadBE_lt (m : Memory) (a n : Nat) : memReadBE m a n < 2 ^ (8 * n) := by
  induction n generalizing a with
  | zero => exact Nat.one_pos
  | succ n ih =>
    rw [memReadBE, byteWeight_succ]
    nlinarith [ih (a + 1), (memByte m a).isLt]

@[simp] theorem memRead_one (m : Memory) (a : Nat) : memRead m a 1 = (memByte m a).toNat := by simp [memRead]

/-- Where the bytes of `MemWrite(a, n, v)` lie, `MemRead(a, n)` gives `v` below 2^(8 n). -/
theorem memRead_bytesLE {m : Memory} {a n v : Nat}
    (h : ∀ i < n, memByte m (a + i) = .ofNat 8 (v >>> (8 * i))) : memRead m a n = v % 2 ^ (8 * n) := by
  induction n generalizing a v with
  | zero => exact (Nat.mod_one v).symm
  | succ n ih =>
    obtain ⟨h0, hs⟩ := Nat.forall_lt_succ_left.1 h
    have low : (memByte m a).toNat = v % 256 := congrArg BitVec.toNat h0
    have high : memRead m (a + 1) n = v / 256 % 2 ^ (8 * n) := ih fun i hlt => by
      rw [Nat.add_right_comm, Nat.add_assoc, hs i hlt, Nat.mul_succ, Nat.add_comm (8 * i), Nat.shiftRight_add,
        Nat.shiftRight_eq_div_pow v 8]
    rw [memRead, low, high, byteWeight_succ, Nat.mod_mul]
    rfl

/-- Where the bytes of `MemWriteBE(a, n, v)` lie, `MemReadBE(a, n)` gives `v` below 2^(8 n). -/
theorem memReadBE_bytesBE {m : Memory} {a n v : Nat}
    (h : ∀ i < n, memByte m (a + i) = .ofNat 8 (v >>> (8 * (n - 1 - i)))) : memReadBE m a n = v % 2 ^ (8 * n) := by
  induction n generalizing a with
  | zero => exact (Nat.mod_one v).symm
  | succ n ih =>
    obtain ⟨h0, hs⟩ := Nat.forall_lt_succ_left.1 h
    have high : (memByte m a).toNat = v / 2 ^ (8 * n) % 256 :=
      (congrArg BitVec.toNat h0).trans (congrArg (· % 256) (Nat.shiftRight_eq_div_pow v (8 * n)))
    have low : memReadBE m (a + 1) n = v % 2 ^ (8 * n) := ih fun i hlt => by
      rw [Nat.add_right_comm, Nat.add_assoc, hs i hlt, Nat.add_sub_cancel, Nat.sub_sub, Nat.add_comm 1]
    rw [memReadBE, high, low, byteWeight_succ, Nat.mul_comm 256, Nat.mod_mul, Nat.mul_comm, Nat.add_comm]

/-- What a run of bytes holds, read back: `MemRead` inside the run. -/
theorem memRead_stored {m : Memory} (h : Rising m) {a : Nat} {bs : List Byte} {o n v : Nat}
    (hb : ∀ i < n, bs[o + i]? = some (.ofNat 8 (v >>> (8 * i)))) :
    memRead (storeBytes m a bs) (a + o) n = v % 2 ^ (8 * n) := by
  apply memRead_bytesLE
  intro i hi
  obtain ⟨hlt, hv⟩ := List.getElem?_eq_some_iff.1 (hb i hi)
  rw [Nat.add_assoc, memByte_storeBytes_inside h _ _ _ hlt, hv]

theorem memReadBE_stored {m : Memory} (h : Rising m) {a : Nat} {bs : List Byte} {o n v : Nat}
    (hb : ∀ i < n, bs[o + i]? = some (.ofNat 8 (v >>> (8 * (n - 1 - i))))) :
    memReadBE (storeBytes m a bs) (a + o) n = v % 2 ^ (8 * n) := by
  apply memReadBE_bytesBE
  intro i hi
  obtain ⟨hlt, hv⟩ := List.getElem?_eq_some_iff.1 (hb i hi)
  rw [Nat.add_assoc, memByte_storeBytes_inside h _ _ _ hlt, hv]

/-- Cell `i` of a stored component line (41_line_codec.md R152). -/
theorem memRead_cells {m : Memory} (h : Rising m) (a : Nat) (cells : List Nat) {i v : Nat} (hv : cells[i]? = some v) :
    memRead (storeBytes m a (cellsBytes cells)) (a + 2 * i) 2 = v % 65536 := by
  have := memRead_stored (o := 2 * i) (n := 2) (v := v) (bs := cellsBytes cells) h (a := a) (by
    intro j hj
    rw [cellsBytes, getElem?_flatMap_of cellBytes cells (fun _ _ => cellBytes_length _) hj v hv, cellBytes,
      bytesLE_getElem? hj])
  simpa using this

end Sys2Proof.Machine
end

