-- ==== Sys2Proof/Laws/Ops.lean ====
section
/-! SUPPORT. What the shared operations can do, once each: completing an effect, the guard of a command's premises, an
abandoned operation, a failure; and that every meaning completes its command's effect. -/

namespace Sys2Proof.Machine

/-! ## Status and results -/

theorem statusDone_eq : statusDone = 0x001 := by decide
theorem statusCompared_eq (e : Bool) : statusCompared e = if e then 0x101 else 0x201 := by cases e <;> decide
theorem statusDescribed_eq (v : Bool) : statusDescribed v = if v then 0x401 else 0x001 := by cases v <;> decide

theorem statusFailed_eq (code : FailCode) : statusFailed code .notMade = .ofNat 32 (0x003 + 16 * failNumber code) := by
  cases code <;> decide

theorem noResults_eq : noResults = .replicate 12 0 := rfl

theorem resultsOf_eq (vs : List Nat) : resultsOf vs = resultWords vs := by
  apply Vector.ext
  intro i hi
  unfold resultsOf resultWords
  rw [Vector.getElem_ofFn]
  interval_cases i <;> rfl

/-- A failure that makes no comparison, in the claims' terms (60_exceptions.md R280). -/
theorem raiseFail_eq (code : FailCode) (s : State) : raiseFail code .notMade s = failedWith s (failNumber code) := by
  rw [raiseFail, startOperation, failedWith, statusFailed_eq, noResults_eq]

/-! ## The shared operations -/

/-- Completing an effect gives a next state exactly in two ways: the effect is done, or it failed. -/
theorem complete_next {e : Effect} {s t : State} :
    complete e s = .next t ↔ (∃ status res runs draws, e = .done status res runs draws ∧ t = succeed status res runs draws s) ∨
      ∃ code cmp, e = .failed code cmp ∧ t = raiseFail code cmp s := by
  cases e <;> simp [complete, eq_comm]

theorem complete_fault {e : Effect} {s : State} {f : Fault} : complete e s = .fault f ↔ e = .faulted f := by
  cases e <;> simp [complete]

theorem complete_refused {e : Effect} {s : State} {r : Refusal} : complete e s = .refused r ↔ e = .outside r := by
  cases e <;> simp [complete]

/-- The guard lets an effect through when the ranges do not overlap and have memory behind them, and stops it by name
otherwise. -/
theorem guarded_cases (s : State) (reads writes : List Range) (e : Effect) :
    (writesOverRead reads writes ∧ guarded s reads writes e = .outside .overlappingBuffers) ∨
      (¬ writesOverRead reads writes ∧ touchesUnbacked s (reads ++ writes) ∧
        guarded s reads writes e = .faulted .unbackedMemory) ∨
      (¬ writesOverRead reads writes ∧ ¬ touchesUnbacked s (reads ++ writes) ∧ guarded s reads writes e = e) := by
  unfold guarded
  split
  · exact .inl ⟨‹_›, rfl⟩
  · split
    · exact .inr (.inl ⟨‹_›, ‹_›, rfl⟩)
    · exact .inr (.inr ⟨‹_›, ‹_›, rfl⟩)

/-- The premises of a command that reads one range and writes another are what the guard tests. -/
theorem premises_iff {s : State} {src dst : Range} :
    premises s src dst ↔ ¬ writesOverRead [src] [dst] ∧ ¬ touchesUnbacked s ([src] ++ [dst]) := by
  simp only [premises, disjoint, isBacked, writesOverRead, touchesUnbacked, List.singleton_append, List.mem_cons,
    List.not_mem_nil, or_false, exists_eq_left, exists_eq_or_imp, not_exists, not_and, not_or, forall_and]

theorem guarded_pass {s : State} {src dst : Range} (h : premises s src dst) (e : Effect) :
    guarded s [src] [dst] e = e := by
  rw [guarded, if_neg (premises_iff.1 h).1, if_neg (premises_iff.1 h).2]

theorem guarded_reads {s : State} {a b : Range} (ha : isBacked s a) (hb : isBacked s b) (e : Effect) :
    guarded s [a, b] [] e = e := by
  have hw : ¬ writesOverRead [a, b] [] := by simp [writesOverRead]
  have hu : ¬ touchesUnbacked s ([a, b] ++ []) := by
    rintro ⟨u, hu, r, hr, ho⟩
    simp only [List.append_nil, List.mem_cons, List.not_mem_nil, or_false] at hr
    rcases hr with rfl | rfl
    · exact ha u hu ho
    · exact hb u hu ho
  rw [guarded, if_neg hw, if_neg hu]

theorem guarded_done {s : State} {reads writes : List Range} {e : Effect} {status res runs draws}
    (h : guarded s reads writes e = .done status res runs draws) : e = .done status res runs draws := by
  rcases guarded_cases s reads writes e with ⟨-, h'⟩ | ⟨-, -, h'⟩ | ⟨-, -, h'⟩ <;> rw [h'] at h
  · cases h
  · cases h
  · exact h

/-- An abandoned operation gives a next state in two ways: with the first of its writes done, or with none. -/
theorem abandon_next {e : Effect} {s t : State} (h : abandon e s = .next t) :
    (∃ status res runs draws, e = .done status res runs draws ∧ ∃ n,
      t = resetRegisters { s with mem := storeRuns s.mem (firstWrites n runs), drawn := s.drawn + draws + 1 }) ∨
    (∃ code cmp, e = .failed code cmp) ∧ t = resetRegisters s := by
  cases e with
  | done status res runs draws =>
    simp only [abandon, Host.Outcome.next.injEq] at h
    exact .inl ⟨_, _, _, _, rfl, _, h.symm⟩
  | failed code cmp =>
    simp only [abandon, Host.Outcome.next.injEq] at h
    exact .inr ⟨⟨_, _, rfl⟩, h.symm⟩
  | faulted f => cases h
  | outside r => cases h

/-- Every meaning completes its command's effect. -/
theorem exec_eq_complete (i : Instr) (s : State) : exec i s = complete (effectOf i s) s := by cases i <;> rfl

/-- A `GO` write completes the command's effect, an illegal command's being the failure `IllegalCommand`. -/
theorem runCommand_eq_complete (s : State) : runCommand s = complete (commandEffect s) s := by
  unfold runCommand commandEffect
  cases decode s.cmd with
  | ok i => exact exec_eq_complete i s
  | error e => rfl

/-- Completing an effect keeps addresses rising. -/
theorem complete_rising {e : Effect} {s t : State} (h : complete e s = .next t) (hm : Rising s.mem) : Rising t.mem := by
  rcases complete_next.1 h with ⟨_, _, runs, _, -, rfl⟩ | ⟨_, _, -, rfl⟩
  · exact storeRuns_rising hm runs
  · rwa [raiseFail_mem]

/-- What an operation that writes one run leaves. -/
theorem succeed_ended {s : State} (h : Rising s.mem) (status : Word) (res : Vector Word 12) (a : Nat) (bs : List Byte)
    (draws : Nat) {stored : Nat → Prop} (hs : ∀ x, ¬ stored x → x < a ∨ a + bs.length ≤ x) :
    Ended s (succeed status res [(a, bs)] draws s) status res stored where
  status := rfl
  res := rfl
  cmd := rfl
  params := rfl
  unbacked := rfl
  pending := rfl
  seen := rfl
  memory x hx := memByte_storeBytes_outside h _ _ _ (hs x hx)

/-- What an operation that writes several runs leaves. -/
theorem succeed_ended_runs {s : State} (h : Rising s.mem) (status : Word) (res : Vector Word 12) (runs : List Run)
    (draws : Nat) {stored : Nat → Prop} (hs : ∀ x, ¬ stored x → ∀ r ∈ runs, x < r.1 ∨ r.1 + r.2.length ≤ x) :
    Ended s (succeed status res runs draws s) status res stored where
  status := rfl
  res := rfl
  cmd := rfl
  params := rfl
  unbacked := rfl
  pending := rfl
  seen := rfl
  memory x hx := memByte_storeRuns_outside h (hs x hx)

end Sys2Proof.Machine
end

