-- ==== Sys2Proof/Laws/LineCodec.lean ====
section
/-! SUPPORT. The line codec's laws: when its checks pass, what the loop over whole groups stores in each direction, and what
one group of each format holds. -/

namespace Sys2Proof.Machine

/-! ## Checks -/

theorem lineFailure_of_passes {fmt : PixelFormat} {gB gC gP : Nat} {a : LineArgs}
    (hg : elementGeometry fmt = ⟨gB, gC, gP⟩) (hc : hasLineCodec fmt = true) (h : linePasses fmt gB gC gP a) :
    lineFailure fmt a = none := by
  obtain ⟨⟨h1, h2⟩, h3, h4, h5, h6⟩ := h
  have hd : descriptorAgrees fmt a.desc = true := by
    unfold descriptorAgrees
    cases hdesc : a.desc with
    | none => rfl
    | some d =>
      obtain ⟨hv, hf⟩ := h4 d (by rw [hdesc]; rfl)
      show ((mkDesc d.dfmt d.size d.vm).valid && decide (d.dfmt = fmt)) = true
      rw [hv, decide_eq_true hf]; rfl
  unfold lineFailure
  simp only [isNull, h1, h2, or_self, if_false, hc, Bool.true_eq_false, hg, Nat.not_lt.2 h3, hd, fits, packedBytes,
    compBytes, groupCount, h5, h6, and_self, not_true_eq_false]

theorem lineFailure_of_not_passes {fmt : PixelFormat} {gB gC gP : Nat} {a : LineArgs}
    (hg : elementGeometry fmt = ⟨gB, gC, gP⟩) (hc : hasLineCodec fmt = true) (h : ¬ linePasses fmt gB gC gP a) :
    lineFailure fmt a = some .badBufferSize := by
  unfold lineFailure
  simp only [isNull, hc, Bool.true_eq_false, if_false, hg, fits, packedBytes, compBytes, groupCount]
  split
  · rfl
  · rename_i hn
    split
    · rfl
    · rename_i hp
      split
      · rfl
      · rename_i hd
        split
        · rfl
        · rename_i h5
          split
          · rfl
          · rename_i h6
            refine absurd ⟨⟨fun e => hn (.inl e), fun e => hn (.inr e)⟩, Nat.le_of_not_lt hp, ?_, not_not.1 h5,
              not_not.1 h6⟩ h
            intro d hdesc
            rw [Option.mem_def] at hdesc
            rw [hdesc] at hd
            simpa [descriptorAgrees] using hd

theorem lineFailure_uncoded {fmt : PixelFormat} (hc : hasLineCodec fmt = false) (a : LineArgs) :
    (a.packedAddr = 0 ∨ a.compAddr = 0 → uncodedEffect fmt a = .failed .badBufferSize .notMade) ∧
      (a.packedAddr ≠ 0 → a.compAddr ≠ 0 → uncodedEffect fmt a = .failed .unsupportedFormat .notMade) := by
  refine ⟨fun h => ?_, fun h1 h2 => ?_⟩
  · rw [uncodedEffect, lineFailure, if_pos h]; rfl
  · rw [uncodedEffect, lineFailure, if_neg (by rintro (h | h) <;> contradiction), if_pos hc]; rfl

/-! ## The loop -/

/-- What `UNPACK` leaves where its checks and premises hold: cell `j` of group `k` is component `j` of that group. -/
theorem unpack_completes {fmt : PixelFormat} {gB gC gP : Nat} {group : Memory → Nat → List Nat} {a : LineArgs} {s : State}
    (hg : elementGeometry fmt = ⟨gB, gC, gP⟩) (hc : hasLineCodec fmt = true) (hl : ∀ m b, (group m b).length = gC)
    (hm : Rising s.mem) (h : linePasses fmt gB gC gP a) (hp : premises s (packedRange gB gP a) (compRange gC gP a)) :
    ∃ t, complete (unpackEffect fmt group a s) s = .next t ∧
      Ended s t 0x001 (.replicate 12 0) (inRange (compRange gC gP a)) ∧ t.drawn = s.drawn ∧
      ∀ k < a.pixelCount / gP, ∀ j < gC,
        compCell t a (gC * k + j) = (group s.mem (a.packedAddr + gB * k)).getD j 0 % 65536 := by
  have he : unpackEffect fmt group a s =
      .done statusDone noResults [(a.compAddr, cellsBytes (unpackedCells fmt group a s.mem))] 0 := by
    unfold unpackEffect
    rw [lineFailure_of_passes hg hc h]
    simp only [packedBytes, compBytes, groupCount, hg]
    exact guarded_pass hp _
  have hlen : (cellsBytes (unpackedCells fmt group a s.mem)).length = 2 * (a.pixelCount / gP) * gC := by
    rw [cellsBytes_length, unpackedCells, length_flatMap_range _ (fun k => hl _ _), groupCount, hg]
    simp only [Nat.mul_assoc, Nat.mul_comm gC]
  refine ⟨succeed statusDone noResults [(a.compAddr, cellsBytes (unpackedCells fmt group a s.mem))] 0 s,
    by rw [he]; rfl, ?_, rfl, ?_⟩
  · rw [statusDone_eq, noResults_eq]
    exact succeed_ended hm _ _ _ _ _ fun x hx => by
      rw [hlen]; simp only [inRange] at hx; omega
  · intro k hk j hj
    refine memRead_cells hm _ _ ?_
    rw [unpackedCells, getElem?_flatMap_range _ (fun k => hl _ _) (by rw [groupCount, hg]; exact hk) hj]
    have hlj : j < (group s.mem (a.packedAddr + gB * k)).length := by rw [hl]; exact hj
    rw [List.getD_eq_getElem?_getD, hg, List.getElem?_eq_getElem hlj]
    rfl

theorem unpack_fails {fmt : PixelFormat} {gB gC gP : Nat} {group : Memory → Nat → List Nat} {a : LineArgs} {s : State}
    (hg : elementGeometry fmt = ⟨gB, gC, gP⟩) (hc : hasLineCodec fmt = true) (h : ¬ linePasses fmt gB gC gP a) :
    complete (unpackEffect fmt group a s) s = .next (failedWith s 2) := by
  rw [unpackEffect, lineFailure_of_not_passes hg hc h, complete, raiseFail_eq, failNumber]

theorem packedGroup_length {fmt : PixelFormat} {pack : List Nat → Option (List Byte)} {a : LineArgs} {s : State}
    (hl : ∀ cells bs, pack cells = some bs → cells.length = (elementGeometry fmt).componentsPerElement →
      bs.length = (elementGeometry fmt).bytesPerElement) (k : Nat) :
    (packedGroup fmt pack a s k).length = (elementGeometry fmt).bytesPerElement := by
  unfold packedGroup
  cases hp : pack (cellsOfGroup fmt a s.mem k) with
  | none => simp [undefinedGroup]
  | some bs => exact hl _ _ hp (by simp [cellsOfGroup])

/-- What `PACK` leaves where its checks and premises hold, whatever the samples: byte `j` of group `k` is the group's. -/
theorem pack_completes {fmt : PixelFormat} {gB gC gP : Nat} {pack : List Nat → Option (List Byte)} {a : LineArgs}
    {s : State} (hg : elementGeometry fmt = ⟨gB, gC, gP⟩) (hc : hasLineCodec fmt = true)
    (hl : ∀ cells bs, pack cells = some bs → cells.length = gC → bs.length = gB)
    (hm : Rising s.mem) (h : linePasses fmt gB gC gP a) (hp : premises s (compRange gC gP a) (packedRange gB gP a)) :
    ∃ t, complete (packEffect fmt pack a s) s = .next t ∧
      Ended s t 0x001 (.replicate 12 0) (inRange (packedRange gB gP a)) ∧
      t.drawn = s.drawn + (if everyGroupFits fmt pack a s.mem then 0 else 1) ∧
      ∀ k < a.pixelCount / gP, ∀ j < gB,
        some (memByte t.mem (a.packedAddr + gB * k + j)) = (packedGroup fmt pack a s k)[j]? := by
  have he : packEffect fmt pack a s =
      .done statusDone noResults [(a.packedAddr, (List.range (groupCount fmt a)).flatMap (packedGroup fmt pack a s))]
        (if everyGroupFits fmt pack a s.mem then 0 else 1) := by
    unfold packEffect
    rw [lineFailure_of_passes hg hc h]
    simp only [packedBytes, compBytes, groupCount, hg]
    exact guarded_pass hp _
  have hgl : ∀ k, (packedGroup fmt pack a s k).length = gB := fun k => by
    rw [packedGroup_length (fun c b hb hlen => by rw [hg] at hlen ⊢; exact hl c b hb hlen), hg]
  have hlen : ((List.range (groupCount fmt a)).flatMap (packedGroup fmt pack a s)).length = a.pixelCount / gP * gB := by
    rw [length_flatMap_range _ hgl, groupCount, hg, Nat.mul_comm]
  refine ⟨_, by rw [he]; rfl, ?_, rfl, ?_⟩
  · rw [statusDone_eq, noResults_eq]
    exact succeed_ended hm _ _ _ _ _ fun x hx => by
      rw [hlen]; simp only [inRange] at hx; omega
  · intro k hk j hj
    have hb := getElem?_flatMap_range (packedGroup fmt pack a s) hgl (count := groupCount fmt a) (k := k) (j := j)
      (by rw [groupCount, hg]; exact hk) hj
    rw [← hb]
    obtain ⟨hlt, hv⟩ := List.getElem?_eq_some_iff.1
      ((List.getElem?_eq_getElem (l := packedGroup fmt pack a s k) (i := j) (by rw [hgl]; exact hj)) ▸ hb)
    rw [List.getElem?_eq_getElem hlt, Nat.add_assoc]
    exact congrArg some (memByte_storeBytes_inside hm _ _ _ hlt)

theorem pack_fails {fmt : PixelFormat} {gB gC gP : Nat} {pack : List Nat → Option (List Byte)} {a : LineArgs} {s : State}
    (hg : elementGeometry fmt = ⟨gB, gC, gP⟩) (hc : hasLineCodec fmt = true) (h : ¬ linePasses fmt gB gC gP a) :
    complete (packEffect fmt pack a s) s = .next (failedWith s 2) := by
  rw [packEffect, lineFailure_of_not_passes hg hc h, complete, raiseFail_eq, failNumber]

/-- Where every cell of a group is at most its maximum the group's bytes are the `PACK` rule's. -/
theorem everyGroupFits_of {fmt : PixelFormat} {pack : List Nat → Option (List Byte)} {a : LineArgs} {m : Memory}
    (h : ∀ k < groupCount fmt a, (pack (cellsOfGroup fmt a m k)).isSome) : everyGroupFits fmt pack a m = true := by
  unfold everyGroupFits
  rw [List.all_eq_true]
  intro k hk
  exact h k (List.mem_range.1 hk)

/-! ## One group -/

@[simp] theorem groupY10P_length (word : WordReader) (m : Memory) (b : Nat) : (groupY10P word m b).length = 12 := by
  simp [groupY10P]
@[simp] theorem groupBytes_length (n : Nat) (m : Memory) (b : Nat) : (groupBytes n m b).length = n := by simp [groupBytes]
@[simp] theorem groupRGB48_length (m : Memory) (b : Nat) : (groupRGB48 m b).length = 3 := by simp [groupRGB48]
@[simp] theorem groupRGB10P_length (word : WordReader) (m : Memory) (b : Nat) : (groupRGB10P word m b).length = 4 := rfl
@[simp] theorem groupPL2_length (l : ParamChoice) (m : Memory) (b : Nat) : (groupPL2 l m b).length = 16 := by
  simp [groupPL2]

theorem bitsAt_eq (v lo width : Nat) : bitsAt v lo width = v / 2 ^ lo % 2 ^ width := by
  rw [bitsAt, Nat.and_two_pow_sub_one_eq_mod, Nat.shiftRight_eq_div_pow]

theorem bitsAt_lt (v lo width : Nat) : bitsAt v lo width < 2 ^ width := by
  rw [bitsAt_eq]; exact Nat.mod_lt _ (Nat.two_pow_pos _)

theorem groupY10P_getD (word : WordReader) (m : Memory) (b : Nat) {j : Nat} (hj : j < 12) :
    (groupY10P word m b).getD j 0 = bitsAt (word m (b + 4 * (j / 3))) (10 * (j % 3)) 10 := by
  have : j = 3 * (j / 3) + j % 3 := by omega
  rw [List.getD_eq_getElem?_getD]
  conv_lhs => rw [this]
  rw [groupY10P, getElem?_flatMap_range (n := 3) _ (by simp) (by omega) (by omega)]
  simp [Nat.mod_lt]

theorem groupBytes_getD (n : Nat) (m : Memory) (b : Nat) {j : Nat} (hj : j < n) :
    (groupBytes n m b).getD j 0 = memRead m (b + j) 1 := by
  simp [groupBytes, List.getD_eq_getElem?_getD, hj]

theorem groupRGB48_getD (m : Memory) (b : Nat) {j : Nat} (hj : j < 3) :
    (groupRGB48 m b).getD j 0 = memRead m (b + 2 * j) 2 := by
  simp [groupRGB48, List.getD_eq_getElem?_getD, hj]

/-- Component `j` of a 10-bit packed-RGB word: R, G, B at bits 22, 12, 2, the alpha the low two bits. -/
theorem groupRGB10P_getD (word : WordReader) (m : Memory) (b : Nat) {j : Nat} (hj : j < 4) :
    (groupRGB10P word m b).getD j 0 =
      bitsAt (word m b) (if j = 3 then 0 else 22 - 10 * j) (if j = 3 then 2 else 10) := by
  rw [groupRGB10P]
  generalize word m b = w
  match j, hj with
  | 0, _ | 1, _ | 2, _ | 3, _ => rfl

theorem groupPL2_getD (l : ParamChoice) (m : Memory) (b : Nat) {j : Nat} (hj : j < 16) :
    (groupPL2 l m b).getD j 0 = bitsAt (layoutPerm l (.ofNat 160 (memRead m b 20))).toNat (10 * j) 10 := by
  simp [groupPL2, List.getD_eq_getElem?_getD, hj]

end Sys2Proof.Machine
end

