-- ==== Sys2Proof/Laws/Effects.lean ====
section
/-! SUPPORT. What any command can come to: the statuses it can end with, that it stores only inside the address space, and
the two ways in which it stops. -/

namespace Sys2Proof.Machine

/-- All an effect can be: done with one of the given statuses, with runs inside the address space that do not overlap; failed, but not as
illegal, and with a comparison unsupported only where `compares` says that it may be; faulted where some address has no
memory behind it; or outside the premises by an overlap. -/
def Effect.Sound (statuses : List Word) (compares : Prop) (s : State) (e : Effect) : Prop :=
  match e with
  | .done status _ runs _ =>
    status ∈ statuses ∧ (∀ r ∈ runs, r.2 ≠ [] → r.1 + r.2.length ≤ 2 ^ 32) ∧
      runs.Pairwise fun p q => p.1 + p.2.length ≤ q.1 ∨ q.1 + q.2.length ≤ p.1
  | .failed code cmp =>
    code ≠ .illegalCommand ∧ (cmp = .notMade ∨ cmp = .unsupported ∧ code = .unsupportedFormat ∧ compares)
  | .faulted _ => s.unbacked ≠ []
  | .outside r => r = .overlappingBuffers

theorem guarded_sound {statuses : List Word} {compares : Prop} {s : State} {e : Effect}
    (h : e.Sound statuses compares s) (reads writes : List Range) : (guarded s reads writes e).Sound statuses compares s := by
  rcases guarded_cases s reads writes e with ⟨-, h'⟩ | ⟨-, ⟨u, hu, -⟩, h'⟩ | ⟨-, -, h'⟩ <;> rw [h']
  · rfl
  · exact List.ne_nil_of_mem hu
  · exact h

/-- A failure of the checks that make no comparison. -/
theorem failed_sound {statuses : List Word} {compares : Prop} {s : State} {code : FailCode} (h : code ≠ .illegalCommand) :
    (Effect.failed code .notMade).Sound statuses compares s := ⟨h, .inl rfl⟩

/-- An operation that stores one run inside the address space. -/
theorem done_one_sound {compares : Prop} {s : State} {status : Word} {statuses : List Word} {res : Vector Word 12} {a draws : Nat}
    {bs : List Byte} (hs : status ∈ statuses) (h : a + bs.length ≤ 2 ^ 32) :
    (Effect.done status res [(a, bs)] draws).Sound statuses compares s :=
  ⟨hs, fun r hr _ => by rw [List.mem_singleton.1 hr]; exact h, List.pairwise_singleton ..⟩

/-! ## The line codec -/

theorem lineFailure_cases (fmt : PixelFormat) (a : LineArgs) :
    lineFailure fmt a = some .badBufferSize ∨ lineFailure fmt a = some .unsupportedFormat ∨
      (lineFailure fmt a = none ∧ fits a.packedAddr a.packedLen (packedBytes fmt a) ∧
        fits a.compAddr a.compLen (compBytes fmt a)) := by
  unfold lineFailure
  split
  · exact .inl rfl
  · split
    · exact .inr (.inl rfl)
    · split
      · exact .inl rfl
      · split
        · exact .inl rfl
        · split
          · exact .inl rfl
          · split
            · exact .inl rfl
            · exact .inr (.inr ⟨rfl, by omega, by omega⟩)

theorem unpackEffect_sound {fmt : PixelFormat} {group : Memory → Nat → List Nat}
    (hl : ∀ m b, (group m b).length = (elementGeometry fmt).componentsPerElement) (a : LineArgs) (s : State) :
    (unpackEffect fmt group a s).Sound [0x001] False s := by
  unfold unpackEffect
  rcases lineFailure_cases fmt a with h | h | ⟨h, -, h2, h3⟩ <;> rw [h]
  · exact failed_sound (by decide)
  · exact failed_sound (by decide)
  · refine guarded_sound (done_one_sound (by decide) ?_) _ _
    rw [cellsBytes_length, unpackedCells, length_flatMap_range _ (fun k => hl _ _)]
    rw [compBytes, Nat.mul_assoc, Nat.mul_comm (groupCount fmt a)] at h2
    omega

theorem packEffect_sound {fmt : PixelFormat} {pack : List Nat → Option (List Byte)}
    (hl : ∀ cells bs, pack cells = some bs → cells.length = (elementGeometry fmt).componentsPerElement →
      bs.length = (elementGeometry fmt).bytesPerElement) (a : LineArgs) (s : State) :
    (packEffect fmt pack a s).Sound [0x001] False s := by
  unfold packEffect
  rcases lineFailure_cases fmt a with h | h | ⟨h, ⟨h2, h3⟩, -⟩ <;> rw [h]
  · exact failed_sound (by decide)
  · exact failed_sound (by decide)
  · refine guarded_sound (done_one_sound (by decide) ?_) _ _
    rw [length_flatMap_range _ (packedGroup_length hl)]
    rw [packedBytes, Nat.mul_comm] at h2
    omega

theorem uncodedEffect_sound (fmt : PixelFormat) (a : LineArgs) (s : State) : (uncodedEffect fmt a).Sound [0x001] False s := by
  unfold uncodedEffect
  rcases lineFailure_cases fmt a with h | h | ⟨h, -⟩ <;> rw [h] <;> exact failed_sound (by decide)

/-! ## The converter -/

theorem cscFailure_cases (minPixels nIn nOut : Nat) (b : LinePair) :
    cscFailure minPixels nIn nOut b = some .nullBuffer ∨ cscFailure minPixels nIn nOut b = some .badBufferSize ∨
      (cscFailure minPixels nIn nOut b = none ∧ (b.srcAddr ≠ 0 ∧ b.dstAddr ≠ 0) ∧ cscPasses minPixels nIn nOut b) := by
  unfold cscFailure
  split
  · exact .inl rfl
  · split
    · exact .inr (.inl rfl)
    · split
      · exact .inr (.inl rfl)
      · split
        · exact .inr (.inl rfl)
        · refine .inr (.inr ⟨rfl, ?_, ?_, ?_, ?_⟩) <;> omega

theorem cscEffect_sound {minPixels nIn nOut : Nat} {b : LinePair} {cells : List Nat} (hl : 2 * cells.length = nOut)
    (s : State) : (cscEffect minPixels nIn nOut b cells s).Sound [0x001] False s := by
  unfold cscEffect
  rcases cscFailure_cases minPixels nIn nOut b with h | h | ⟨h, -, -, -, h2, h3⟩ <;> rw [h]
  · exact failed_sound (by decide)
  · exact failed_sound (by decide)
  · refine guarded_sound (done_one_sound (by decide) ?_) _ _
    rw [cellsBytes_length]
    omega

theorem rgbPixel_length (p : Params) (sd sr al a4 : Bool) (dep : Depth) (y u v : Nat) :
    (rgbPixel p sd sr al a4 dep y u v).length = rgbCells a4 := by
  unfold rgbPixel
  cases a4 <;> rfl

theorem rgbPair_length (p : Params) (sd sr al a4 : Bool) (dep : Depth) (b : LinePair) (m : Memory) (k : Nat) :
    (rgbPair p sd sr al a4 dep b m k).length = 2 * rgbCells a4 := by
  rw [rgbPair, List.length_append, rgbPixel_length, rgbPixel_length]; omega

theorem yccPair_length (p : Params) (sd sr a4 : Bool) (dep : Depth) (b : LinePair) (m : Memory) (k : Nat) :
    (yccPair p sd sr a4 dep b m k).length = 4 := rfl

/-! ## The reader -/

theorem elementSlots_length (p : Params) (fmt : PixelFormat) (d : Descriptor) (m : Memory) (addr line e : Nat) :
    (elementSlots p fmt d m addr line e).length = slotsPerElement fmt := by
  cases fmt <;> simp [elementSlots, slotsPerElement, elementGeometry, noGeometry, planarSlots, biplanarSlots]

theorem viewSlots_length (p : Params) (fmt : PixelFormat) (d : Descriptor) (m : Memory) (addr : Nat) :
    (viewSlots p fmt d m addr).length = slotCount fmt d := by
  rw [viewSlots, length_flatMap_range _ (fun line => length_flatMap_range _ (fun e => elementSlots_length ..) _), slotCount,
    Nat.mul_comm, Nat.mul_assoc, Nat.mul_comm (slotsPerElement fmt)]

theorem viewFailure_cases (fmt : PixelFormat) (d : Descriptor) (addr len : Nat) :
    (∃ code, viewFailure fmt d addr len = some code ∧ code ≠ .illegalCommand) ∨
      (viewFailure fmt d addr len = none ∧ addr ≠ 0 ∧ isModelled fmt ∧ viewGeometryPasses fmt d ∧ fits addr len d.totalBytes) := by
  unfold viewFailure
  split
  · exact .inl ⟨_, rfl, by decide⟩
  · split
    · exact .inl ⟨_, rfl, by decide⟩
    · split
      · exact .inl ⟨_, rfl, by decide⟩
      · split
        · exact .inl ⟨_, rfl, by decide⟩
        · split
          · exact .inl ⟨_, rfl, by decide⟩
          · rename_i h1 h2 h3 h4 h5
            exact .inr ⟨rfl, h1, not_not.1 h2, ⟨by simpa using h3, fun hp => by_contra fun hn => h4 ⟨hp, hn⟩⟩, not_not.1 h5⟩

theorem effectView_sound (fmt : PixelFormat) (vm : Bool) (v : ViewArgs) (s : State) :
    (effectView fmt vm v s).Sound [0x001] False s := by
  unfold effectView viewOpFailure
  dsimp only
  split
  · rename_i code h
    refine failed_sound ?_
    split at h
    · cases h; decide
    · rcases viewFailure_cases fmt (mkDesc fmt v.size vm) v.aAddr v.aLen with ⟨c, hc, hn⟩ | ⟨hc, -⟩ <;> rw [hc] at h
      · cases h; exact hn
      · dsimp only at h
        split at h <;> cases h
        decide
  · rename_i h
    refine guarded_sound (done_one_sound (by decide) ?_) _ _
    rw [cellsBytes_length, viewSlots_length]
    split at h
    · cases h
    · rcases viewFailure_cases fmt (mkDesc fmt v.size vm) v.aAddr v.aLen with ⟨c, hc, -⟩ | ⟨hc, -⟩ <;> rw [hc] at h
      · cases h
      · dsimp only at h
        split at h
        · cases h
        · omega

theorem effectCmpv_sound (fmt : PixelFormat) (vm : Bool) (v : ViewArgs) (s : State) :
    (effectCmpv fmt vm v s).Sound [0x101, 0x201] True s := by
  unfold effectCmpv
  dsimp only
  split
  · exact failed_sound (by decide)
  · split
    · exact ⟨by decide, .inr ⟨rfl, rfl, trivial⟩⟩
    · rcases viewFailure_cases fmt (mkDesc fmt v.size vm) v.aAddr v.aLen with ⟨c, hc, hn⟩ | ⟨hc, -⟩ <;> rw [hc]
      · exact failed_sound hn
      · rcases viewFailure_cases fmt (mkDesc fmt v.size vm) v.bAddr v.bLen with ⟨c, hc, hn⟩ | ⟨hc, -⟩ <;> rw [hc]
        · exact failed_sound hn
        · apply guarded_sound
          refine ⟨?_, by simp, by simp⟩
          rw [statusCompared_eq]
          split <;> simp

/-! ## The raster transforms -/

/-- Rows no longer than the pitch at which they lie do not overlap. -/
theorem rows_pairwise {base pitch n : Nat} {start : Nat → Nat} {bytes : Nat → List Byte}
    (h : ∀ r, (bytes r).length ≤ pitch ∧ start r = base + r * pitch) :
    ((List.range n).map fun r => (start r, bytes r)).Pairwise fun p q => p.1 + p.2.length ≤ q.1 ∨ q.1 + q.2.length ≤ p.1 := by
  rw [List.pairwise_map]
  refine List.pairwise_lt_range.imp fun {r k} hlt => .inl ?_
  have h1 := h r
  have : (r + 1) * pitch ≤ k * pitch := Nat.mul_le_mul_right _ hlt
  rw [Nat.add_mul, Nat.one_mul] at this
  simp only [h1.2, (h k).2]
  omega


theorem blitFailure_cases (gP : Nat) (b : BlitArgs) :
    blitFailure gP b = some .badGeometry ∨ blitFailure gP b = some .badBufferSize ∨
      (blitFailure gP b = none ∧ b.srcAddr ≠ b.dstAddr ∧
        (b.srcPitch ≠ 0 ∧ b.dstPitch ≠ 0 ∧ b.srcHeight ≠ 0 ∧ b.dstHeight ≠ 0) ∧
        (b.srcX % gP = 0 ∧ b.rectW % gP = 0 ∧ b.dstX % gP = 0) ∧
        b.srcAddr + b.srcPitch * b.srcHeight ≤ 2 ^ 32 ∧ b.dstAddr + b.dstPitch * b.dstHeight ≤ 2 ^ 32) := by
  unfold blitFailure
  split
  · exact .inl rfl
  · split
    · exact .inl rfl
    · split
      · exact .inl rfl
      · split
        · exact .inr (.inl rfl)
        · rename_i h1 h2 h3 h4
          refine .inr (.inr ⟨rfl, h1, ?_, ?_, not_not.1 h4⟩) <;> omega

/-- A granularity's two numbers are positive. -/
theorem granularity_pos {fmt : PixelFormat} {gB gP : Nat} (h : granularity fmt = some (gB, gP)) : 0 < gB ∧ 0 < gP := by
  cases fmt <;> cases h <;> decide

/-- A row of a `BLIT` ends within the whole pixels of the destination's pitch (44_raster_transforms.md R255). -/
theorem blit_row_in_pitch {gB gP : Nat} {b : BlitArgs} (hP : 0 < gP) (hx : b.dstX % gP = 0)
    (hn : 0 < blitRowBytes gB gP b) : b.dstX / gP * gB + blitRowBytes gB gP b ≤ b.dstPitch / gB * gB := by
  have hw : clipWidth gB gP b ≤ b.dstPitch / gB * gP - b.dstX :=
    Nat.le_trans (Nat.min_le_right ..) (Nat.min_le_right ..)
  rw [blitRowBytes] at hn ⊢
  have hpos : 0 < clipWidth gB gP b / gP := Nat.pos_of_mul_pos_right hn
  have hge : gP ≤ clipWidth gB gP b := by
    by_contra hlt
    rw [Nat.div_eq_of_lt (Nat.lt_of_not_le hlt)] at hpos
    omega
  obtain ⟨q, hq⟩ := Nat.dvd_of_mod_eq_zero hx
  have hdiv : b.dstX / gP = q := by rw [hq, Nat.mul_div_cancel_left _ hP]
  have : clipWidth gB gP b / gP + q ≤ b.dstPitch / gB := by
    rw [← Nat.add_mul_div_left _ _ hP, ← hq]
    refine Nat.le_trans (Nat.div_le_div_right (c := gP) (b := b.dstPitch / gB * gP) (by omega)) ?_
    rw [Nat.mul_div_cancel _ hP]
  calc b.dstX / gP * gB + clipWidth gB gP b / gP * gB = (clipWidth gB gP b / gP + q) * gB := by rw [hdiv]; ring
    _ ≤ b.dstPitch / gB * gB := Nat.mul_le_mul_right _ this

/-- Line `y` of a raster, when `y` is one of its lines, ends within the raster. -/
theorem line_in_raster {pitch height y n : Nat} (hy : y < height) (hn : n ≤ pitch) : y * pitch + n ≤ pitch * height := by
  calc y * pitch + n ≤ y * pitch + pitch := Nat.add_le_add_left hn _
    _ = pitch * (y + 1) := by ring
    _ ≤ pitch * height := Nat.mul_le_mul_left _ hy

theorem clipHeight_lt {b : BlitArgs} {r : Nat} (h : r < clipHeight b) : b.dstY + r < b.dstHeight ∧ b.srcY + r < b.srcHeight := by
  unfold clipHeight at h
  omega

theorem effectBlit_sound (fmt : PixelFormat) (b : BlitArgs) (s : State) : (effectBlit fmt b s).Sound [0x001] False s := by
  unfold effectBlit
  split
  · exact failed_sound (by decide)
  · split
    · exact failed_sound (by decide)
    · rename_i gB gP hg
      rcases blitFailure_cases gP b with h | h | ⟨h, -, -, ⟨-, -, hx⟩, -, h3⟩ <;> rw [h]
      · exact failed_sound (by decide)
      · exact failed_sound (by decide)
      · dsimp only
        split
        · exact ⟨by decide, by simp, by simp⟩
        · rename_i hne
          apply guarded_sound
          refine ⟨by decide, ?_, rows_pairwise
            (base := b.dstAddr + b.dstY * b.dstPitch + b.dstX / gP * gB) (pitch := b.dstPitch) fun r => ?_⟩
          rotate_left
          · have hrow := blit_row_in_pitch (gB := gB) (granularity_pos hg).2 hx (by omega)
            have := Nat.div_mul_le_self b.dstPitch gB
            rw [memBytes_length]
            exact ⟨Nat.le_trans (Nat.le_add_left ..) (Nat.le_trans hrow this), by rw [blitTarget]; ring⟩
          intro r hr _
          obtain ⟨k, hk, rfl⟩ := List.mem_map.1 hr
          have hk' := (clipHeight_lt (List.mem_range.1 hk)).1
          have hrow := blit_row_in_pitch (gB := gB) (granularity_pos hg).2 hx (by omega)
          have hin := line_in_raster hk' (Nat.le_trans hrow (Nat.div_mul_le_self _ _))
          rw [memBytes_length, blitTarget]
          omega

theorem quadFailure_cases (a : QuadArgs) :
    (∃ code, quadFailure a = some code ∧ code ≠ .illegalCommand) ∨ (quadFailure a = none ∧ QuadPasses a) := by
  unfold quadFailure
  split
  · exact .inl ⟨_, rfl, by decide⟩
  · split
    · exact .inl ⟨_, rfl, by decide⟩
    · split
      · exact .inl ⟨_, rfl, by decide⟩
      · split
        · exact .inl ⟨_, rfl, by decide⟩
        · split
          · exact .inl ⟨_, rfl, by decide⟩
          · split
            · exact .inl ⟨_, rfl, by decide⟩
            · rename_i h1 h2 h3 h4 h5 h6
              refine .inr ⟨rfl, ⟨?_, h2, ?_, ?_, ?_, not_not.1 h6⟩⟩
              · exact ⟨fun h => h1 (.inl h), fun h => h1 (.inr h)⟩
              · omega
              · omega
              · unfold quadPitch at h5; omega

/-- Row `r` of a quadrant lies within the full raster. -/
theorem quadRow_in_full {a : QuadArgs} (h : QuadPasses a) (q : Quadrant) {r : Nat} (hr : r < quadHeight a) :
    quadOrigin q a + r * a.fullPitch + quadPitch a ≤ a.fullPitch * a.fullHeight := by
  have he := h.even
  have ho := h.offset
  have hH : a.fullHeight = 2 * quadHeight a := by unfold quadHeight; omega
  have hP : a.fullPitch = 2 * quadPitch a := by unfold quadPitch; omega
  have hup : r * a.fullPitch + a.fullPitch ≤ quadHeight a * a.fullPitch := by
    calc r * a.fullPitch + a.fullPitch = (r + 1) * a.fullPitch := by ring
      _ ≤ quadHeight a * a.fullPitch := Nat.mul_le_mul_right _ hr
  have hfull : a.fullPitch * a.fullHeight = 2 * (quadHeight a * a.fullPitch) := by rw [hH]; ring
  cases q <;> simp only [quadOrigin] <;> omega

/-- Row `r` of a quadrant lies within the quadrant image. -/
theorem quadRow_in_image (a : QuadArgs) {r : Nat} (hr : r < quadHeight a) :
    r * quadPitch a + quadPitch a ≤ quadPitch a * quadHeight a := line_in_raster hr (Nat.le_refl _)

theorem effectQsplit_sound (q : Quadrant) (a : QuadArgs) (s : State) : (effectQsplit q a s).Sound [0x001] False s := by
  unfold effectQsplit
  rcases quadFailure_cases a with ⟨c, h, hn⟩ | ⟨h, hp⟩ <;> rw [h]
  · exact failed_sound hn
  · apply guarded_sound
    refine ⟨by decide, ?_, rows_pairwise (base := a.quadAddr) (pitch := quadPitch a) fun r => ?_⟩
    rotate_left
    · rw [memBytes_length]
      exact ⟨Nat.le_refl _, rfl⟩
    intro r hr _
    obtain ⟨k, hk, rfl⟩ := List.mem_map.1 hr
    have := quadRow_in_image a (List.mem_range.1 hk)
    have hf : a.quadAddr + quadPitch a * quadHeight a ≤ 2 ^ 32 := hp.fits.2
    rw [memBytes_length, quadRowInImage]
    omega

theorem effectQmerge_sound (q : Quadrant) (a : QuadArgs) (s : State) : (effectQmerge q a s).Sound [0x001] False s := by
  unfold effectQmerge
  rcases quadFailure_cases a with ⟨c, h, hn⟩ | ⟨h, hp⟩ <;> rw [h]
  · exact failed_sound hn
  · apply guarded_sound
    refine ⟨by decide, ?_, rows_pairwise (base := a.fullAddr + quadOrigin q a) (pitch := a.fullPitch) fun r => ?_⟩
    rotate_left
    · rw [memBytes_length]
      exact ⟨Nat.div_le_self _ _, rfl⟩
    intro r hr _
    obtain ⟨k, hk, rfl⟩ := List.mem_map.1 hr
    have := quadRow_in_full hp q (List.mem_range.1 hk)
    have hf := hp.fits.1
    rw [memBytes_length, quadRowInFull]
    omega

/-! ## Groups and their bytes -/

theorem wordBytes_flatMap_length {word : Nat → List Byte} (hw : ∀ v, (word v).length = 4) {n : Nat} (f : Nat → Nat) :
    ((List.range n).flatMap fun i => word (f i)).length = 4 * n := length_flatMap_range _ (fun _ => hw _) n

theorem packY10P_length {word : Nat → List Byte} (hw : ∀ v, (word v).length = 4) (cells : List Nat) (bs : List Byte)
    (h : packY10P word cells = some bs) : bs.length = 16 := by
  unfold packY10P at h
  split at h <;> cases h
  exact wordBytes_flatMap_length hw _

theorem packBytes_length {n : Nat} (cells : List Nat) (bs : List Byte) (h : packBytes n cells = some bs) :
    bs.length = cells.length := by
  unfold packBytes at h
  split at h <;> cases h
  rw [length_flatMap_of (n := 1) _ _ fun _ _ => bytesLE_length ..]; omega

theorem packRGB48_length (cells : List Nat) (bs : List Byte) (h : packRGB48 cells = some bs) :
    bs.length = 2 * cells.length := by
  cases h
  exact length_flatMap_of _ _ fun _ _ => bytesLE_length ..

theorem packRGB10P_length {word : Nat → List Byte} (hw : ∀ v, (word v).length = 4) (cells : List Nat) (bs : List Byte)
    (h : packRGB10P word cells = some bs) : bs.length = 4 := by
  unfold packRGB10P at h
  split at h <;> cases h
  exact hw _

theorem packPL2_length (layout : ParamChoice) (cells : List Nat) (bs : List Byte) (h : packPL2 layout cells = some bs) :
    bs.length = 20 := by
  unfold packPL2 at h
  split at h <;> cases h
  exact bytesLE_length ..

/-! ## Every command -/

/-- What each command can come to: `DESC` may end with `VALID`, `CMPV` with a comparison, every other in plain success. -/
theorem effectOf_sound (i : Instr) (s : State) :
    (∃ fmt vm r, i = .desc fmt vm r ∧ (effectOf i s).Sound [0x001, 0x401] False s) ∨
      (∃ fmt vm v, i = .cmpv fmt vm v ∧ (effectOf i s).Sound [0x101, 0x201] True s) ∨
      ((∀ fmt vm r, i ≠ .desc fmt vm r) ∧ (∀ fmt vm v, i ≠ .cmpv fmt vm v) ∧ (effectOf i s).Sound [0x001] False s) := by
  cases i
  case desc fmt vm r =>
    refine .inl ⟨_, _, _, rfl, ?_⟩
    unfold effectOf effectDesc
    dsimp only
    split
    · exact failed_sound (by decide)
    · refine ⟨?_, by simp, by simp⟩
      rw [statusDescribed_eq]
      split <;> simp
  case cmpv fmt vm v => exact .inr (.inl ⟨_, _, _, rfl, effectCmpv_sound fmt vm v s⟩)
  all_goals refine .inr (.inr ⟨nofun, nofun, ?_⟩)
  case geom fmt => exact ⟨by decide, by simp, by simp⟩
  case view fmt vm v => exact effectView_sound fmt vm v s
  case blit fmt b => exact effectBlit_sound fmt b s
  case qsplit q a => exact effectQsplit_sound q a s
  case qmerge q a => exact effectQmerge_sound q a s
  case cscY2R sd sr al a4 dep b =>
    refine cscEffect_sound ?_ s
    rw [length_flatMap_range _ (fun _ => rgbPair_length ..)]; ring
  case cscR2Y sd sr a4 dep b =>
    refine cscEffect_sound ?_ s
    rw [length_flatMap_range _ (fun _ => yccPair_length ..)]; ring
  case cscRDepth a4 dep dep2 b => exact cscEffect_sound (by simp) s
  case unpackY10P a => exact unpackEffect_sound (by simp [elementGeometry]) a s
  case unpackY10P_BE a => exact unpackEffect_sound (by simp [elementGeometry]) a s
  case unpackY8P a => exact unpackEffect_sound (by simp [elementGeometry]) a s
  case unpackRGB24 a => exact unpackEffect_sound (by simp [elementGeometry]) a s
  case unpackRGBA32 a => exact unpackEffect_sound (by simp [elementGeometry]) a s
  case unpackRGB48 a => exact unpackEffect_sound (by simp [elementGeometry]) a s
  case unpackRGB10P a => exact unpackEffect_sound (by simp [elementGeometry]) a s
  case unpackRGB10P_BE a => exact unpackEffect_sound (by simp [elementGeometry]) a s
  case unpackY10_420_PL2 a => exact unpackEffect_sound (by simp [elementGeometry]) a s
  case packY10P a => exact packEffect_sound (fmt := .y10p) (fun c bs h _ => packY10P_length (by simp) c bs h) a s
  case packY10P_BE a => exact packEffect_sound (fmt := .y10pBE) (fun c bs h _ => packY10P_length (by simp) c bs h) a s
  case packY8P a => exact packEffect_sound (fmt := .y8p) (fun c bs h hc => (packBytes_length c bs h).trans hc) a s
  case packRGB24 a => exact packEffect_sound (fmt := .rgb24) (fun c bs h hc => (packBytes_length c bs h).trans hc) a s
  case packRGBA32 a => exact packEffect_sound (fmt := .rgba32) (fun c bs h hc => (packBytes_length c bs h).trans hc) a s
  case packRGB48 a =>
    exact packEffect_sound (fmt := .rgb48) (fun c bs h hc => by rw [packRGB48_length c bs h, hc]; rfl) a s
  case packRGB10P a => exact packEffect_sound (fmt := .rgb10p) (fun c bs h _ => packRGB10P_length (by simp) c bs h) a s
  case packRGB10P_BE a => exact packEffect_sound (fmt := .rgb10pBE) (fun c bs h _ => packRGB10P_length (by simp) c bs h) a s
  case packY10_420_PL2 a => exact packEffect_sound (fmt := .y10_420pl2) (fun c bs h _ => packPL2_length _ c bs h) a s
  all_goals exact uncodedEffect_sound _ _ s

end Sys2Proof.Machine
end

