-- ==== Sys2Proof/Laws/ColorSpace.lean ====
section
/-! SUPPORT. The converter's laws: when its checks fail and pass, what a converter operation leaves, and the cells of its
pixels. -/

namespace Sys2Proof.Machine

theorem cscFailure_null {minPixels nIn nOut : Nat} {b : LinePair} (h : b.srcAddr = 0 ∨ b.dstAddr = 0) :
    cscFailure minPixels nIn nOut b = some .nullBuffer := by rw [cscFailure, if_pos h]

theorem cscFailure_of_not_passes {minPixels nIn nOut : Nat} {b : LinePair} (h1 : b.srcAddr ≠ 0) (h2 : b.dstAddr ≠ 0)
    (h : ¬ cscPasses minPixels nIn nOut b) : cscFailure minPixels nIn nOut b = some .badBufferSize := by
  rcases cscFailure_cases minPixels nIn nOut b with hf | hf | ⟨-, -, hp⟩
  · rw [cscFailure, if_neg (by rintro (e | e) <;> contradiction)] at hf
    split at hf <;> [cases hf; split at hf <;> [cases hf; split at hf <;> cases hf]]
  · exact hf
  · exact absurd hp h

theorem cscFailure_of_passes {minPixels nIn nOut : Nat} {b : LinePair} (h1 : b.srcAddr ≠ 0) (h2 : b.dstAddr ≠ 0)
    (h : cscPasses minPixels nIn nOut b) : cscFailure minPixels nIn nOut b = none := by
  obtain ⟨h3, h4, h5⟩ := h
  rw [cscFailure, if_neg (by rintro (e | e) <;> contradiction), if_neg (Nat.not_lt.2 h3), if_neg (not_not.2 h4),
    if_neg (not_not.2 h5)]

/-- What a converter operation leaves where its checks and premises hold: its cells, in order. -/
theorem csc_completes {minPixels nIn nOut : Nat} {b : LinePair} {cells : List Nat} {s : State} (hl : 2 * cells.length = nOut)
    (hm : Rising s.mem) (h1 : b.srcAddr ≠ 0) (h2 : b.dstAddr ≠ 0) (h : cscPasses minPixels nIn nOut b)
    (hp : premises s ⟨b.srcAddr, nIn⟩ ⟨b.dstAddr, nOut⟩) :
    ∃ t, complete (cscEffect minPixels nIn nOut b cells s) s = .next t ∧
      Ended s t 0x001 (.replicate 12 0) (inRange ⟨b.dstAddr, nOut⟩) ∧ t.drawn = s.drawn ∧
      ∀ i v, cells[i]? = some v → dstCell t b i = v % 65536 := by
  have he : cscEffect minPixels nIn nOut b cells s = .done statusDone noResults [(b.dstAddr, cellsBytes cells)] 0 := by
    unfold cscEffect
    rw [cscFailure_of_passes h1 h2 h]
    exact guarded_pass hp _
  refine ⟨succeed statusDone noResults [(b.dstAddr, cellsBytes cells)] 0 s, by rw [he]; rfl, ?_, rfl, ?_⟩
  · rw [statusDone_eq, noResults_eq]
    exact succeed_ended hm _ _ _ _ _ fun x hx => by
      rw [cellsBytes_length]; simp only [inRange] at hx; omega
  · intro i v hv
    exact memRead_cells hm _ _ hv

/-- A converter operation by its checks, as claims state it. -/
theorem convertsTo_of {i : Instr} {b : LinePair} {minPixels nIn nOut : Nat} {cells : State → List Nat}
    {converted : State → State → Prop} (he : ∀ s, effectOf i s = cscEffect minPixels nIn nOut b (cells s) s)
    (hl : ∀ s, 2 * (cells s).length = nOut)
    (hc : ∀ s t, (∀ k v, (cells s)[k]? = some v → dstCell t b k = v % 65536) → converted s t) :
    ConvertsTo i b minPixels nIn nOut converted := by
  refine ⟨fun s h => ?_, fun s h1 h2 h => ?_, fun s hm h1 h2 h hp => ?_⟩
  · rw [exec_eq_complete, he, cscEffect, cscFailure_null h, complete, raiseFail_eq, failNumber]
  · rw [exec_eq_complete, he, cscEffect, cscFailure_of_not_passes h1 h2 h, complete, raiseFail_eq, failNumber]
  · rw [exec_eq_complete, he]
    obtain ⟨t, ht, hE, hd, hcells⟩ := csc_completes (hl s) (rising_of_wf hm) h1 h2 h hp
    exact ⟨t, ht, hE, hd, hc s t hcells⟩

/-- A cell is below 2^16. -/
theorem wrap16_lt (x : Int) : wrap16 x < 65536 := by unfold wrap16; omega

theorem rgbCells_eq (a4 : Bool) : rgbCells a4 = 3 + a4.toNat := rfl

/-- The cells of one RGB pixel: R, G, B, and with four samples a pixel its alpha (42_color_space.md R201, R200). -/
theorem rgbPixel_getElem? (p : Params) (sd sr al a4 : Bool) (dep : Depth) (y u v : Nat) :
    let rgb := kernelY2R p.kernel sd sr y u v
    let cells := rgbPixel p sd sr al a4 dep y u v
    cells[0]? = some (wrap16 (from10 rgb.1 dep)) ∧ cells[1]? = some (wrap16 (from10 rgb.2.1 dep)) ∧
      cells[2]? = some (wrap16 (from10 rgb.2.2 dep)) ∧
      (a4 = true → cells[3]? = some (wrap16 (if al then y / 4 else alphaDefault p.alpha dep))) := by
  dsimp only
  unfold rgbPixel
  cases a4
  · exact ⟨rfl, rfl, rfl, nofun⟩
  · exact ⟨rfl, rfl, rfl, fun _ => by cases al <;> rfl⟩

end Sys2Proof.Machine
end

