-- ==== Sys2Proof/Laws/Encoding.lean ====
section
/-! SUPPORT. The laws of command words: the words of an encoded command, and the fields of `CMD[0]` as masks. -/

namespace Sys2Proof

/-! ## The words of an encoded command -/

section words
variable (w0 w1 w2 w3 w4 w5 w6 w7 w8 w9 w10 w11 w12 w13 w14 w15 : Nat)

/-- The first word of sixteen. -/
theorem commandOfNats_zero :
    (commandOfNats w0 w1 w2 w3 w4 w5 w6 w7 w8 w9 w10 w11 w12 w13 w14 w15)[0] = .ofNat 32 w0 := rfl

/-- Every word of sixteen. -/
theorem commandOfNats_get (i : Fin 16) :
    (commandOfNats w0 w1 w2 w3 w4 w5 w6 w7 w8 w9 w10 w11 w12 w13 w14 w15)[i] =
      .ofNat 32 ([w0, w1, w2, w3, w4, w5, w6, w7, w8, w9, w10, w11, w12, w13, w14, w15].getD i 0) := by
  fin_cases i <;> rfl

/-- The operand words of sixteen. -/
@[simp] theorem operand_commandOfNats_1 : operand (commandOfNats w0 w1 w2 w3 w4 w5 w6 w7 w8 w9 w10 w11 w12 w13 w14 w15) 1 = w1 % 2 ^ 32 := rfl
@[simp] theorem operand_commandOfNats_2 : operand (commandOfNats w0 w1 w2 w3 w4 w5 w6 w7 w8 w9 w10 w11 w12 w13 w14 w15) 2 = w2 % 2 ^ 32 := rfl
@[simp] theorem operand_commandOfNats_3 : operand (commandOfNats w0 w1 w2 w3 w4 w5 w6 w7 w8 w9 w10 w11 w12 w13 w14 w15) 3 = w3 % 2 ^ 32 := rfl
@[simp] theorem operand_commandOfNats_4 : operand (commandOfNats w0 w1 w2 w3 w4 w5 w6 w7 w8 w9 w10 w11 w12 w13 w14 w15) 4 = w4 % 2 ^ 32 := rfl
@[simp] theorem operand_commandOfNats_5 : operand (commandOfNats w0 w1 w2 w3 w4 w5 w6 w7 w8 w9 w10 w11 w12 w13 w14 w15) 5 = w5 % 2 ^ 32 := rfl
@[simp] theorem operand_commandOfNats_6 : operand (commandOfNats w0 w1 w2 w3 w4 w5 w6 w7 w8 w9 w10 w11 w12 w13 w14 w15) 6 = w6 % 2 ^ 32 := rfl
@[simp] theorem operand_commandOfNats_7 : operand (commandOfNats w0 w1 w2 w3 w4 w5 w6 w7 w8 w9 w10 w11 w12 w13 w14 w15) 7 = w7 % 2 ^ 32 := rfl
@[simp] theorem operand_commandOfNats_8 : operand (commandOfNats w0 w1 w2 w3 w4 w5 w6 w7 w8 w9 w10 w11 w12 w13 w14 w15) 8 = w8 % 2 ^ 32 := rfl
@[simp] theorem operand_commandOfNats_9 : operand (commandOfNats w0 w1 w2 w3 w4 w5 w6 w7 w8 w9 w10 w11 w12 w13 w14 w15) 9 = w9 % 2 ^ 32 := rfl
@[simp] theorem operand_commandOfNats_10 : operand (commandOfNats w0 w1 w2 w3 w4 w5 w6 w7 w8 w9 w10 w11 w12 w13 w14 w15) 10 = w10 % 2 ^ 32 := rfl
@[simp] theorem operand_commandOfNats_11 : operand (commandOfNats w0 w1 w2 w3 w4 w5 w6 w7 w8 w9 w10 w11 w12 w13 w14 w15) 11 = w11 % 2 ^ 32 := rfl
@[simp] theorem operand_commandOfNats_12 : operand (commandOfNats w0 w1 w2 w3 w4 w5 w6 w7 w8 w9 w10 w11 w12 w13 w14 w15) 12 = w12 % 2 ^ 32 := rfl

end words

/-- A command whose words from some place on were written as zeros has them zero, as the decoder checks it. -/
theorem wordsZeroFrom_of {ws : List Nat} {cmd : Command} {n : Nat}
    (hc : ∀ i : Fin 16, cmd[i] = .ofNat 32 (ws.getD i 0)) (hz : ∀ x ∈ ws.drop n, x = 0) : wordsZeroFrom n cmd = true := by
  unfold wordsZeroFrom
  rw [decide_eq_true_eq]
  intro i hi
  have h0 : ws.getD i 0 = 0 := by
    rw [List.getD_eq_getElem?_getD]
    cases hx : ws[i.val]? with
    | none => rfl
    | some x =>
      refine hz x (List.mem_iff_getElem?.2 ⟨i - n, ?_⟩)
      rw [List.getElem?_drop, Nat.add_sub_cancel' hi, hx]
  rw [hc i, h0]; rfl

/-! ## Masks of fields -/

/-- A mask of a word given as a natural. -/
theorem and_ofNat_toNat (w m : Nat) : ((BitVec.ofNat 32 w) &&& (BitVec.ofNat 32 m)).toNat = (w &&& m) % 2 ^ 32 := by
  rw [← BitVec.ofNat_and, BitVec.toNat_ofNat]

/-- Masking with ones below `n` is the remainder. -/
theorem and_low_mask (w n : Nat) : w &&& (2 ^ n - 1) = w % 2 ^ n := Nat.and_two_pow_sub_one_eq_mod w n

/-- A field of a word given as a natural below 2^32. -/
theorem field_ofNat {w : Nat} (h : w < 2 ^ 32) (hi lo : Nat) :
    field (.ofNat 32 w) hi lo = w / 2 ^ lo % 2 ^ (hi + 1 - lo) := by
  rw [field, BitVec.toNat_ofNat, Nat.mod_eq_of_lt h]

/-- A flag of a word given as a natural below 2^32. -/
theorem flag_ofNat {w : Nat} (h : w < 2 ^ 32) (n : Nat) : flag (.ofNat 32 w) n = decide (w / 2 ^ n % 2 = 1) := by
  rw [flag, field_ofNat h, Nat.add_sub_cancel_left, Nat.pow_one]

/-- Unused fields of a word given as a natural below 2^32. -/
theorem fieldsZero_ofNat {w : Nat} (h : w < 2 ^ 32) {u : UnusedFields}
    (hu : ∀ f ∈ u, w / 2 ^ f.2 % 2 ^ (f.1 + 1 - f.2) = 0) : fieldsZero (.ofNat 32 w) u = true := by
  unfold fieldsZero
  rw [List.all_eq_true]
  intro f hf
  rw [field_ofNat h, decide_eq_true_eq]
  exact hu f hf

/-- A field is the number of the word's bits there. -/
theorem field_eq_extract (v : Word) (hi lo : Nat) : field v hi lo = (v.extractLsb' lo (hi + 1 - lo)).toNat := by
  rw [field, BitVec.extractLsb'_toNat, Nat.shiftRight_eq_div_pow]

/-- A field holds `x` exactly when the word's bits there are those of `x`. -/
theorem field_eq_iff (v : Word) (hi lo : Nat) (x : BitVec (hi + 1 - lo)) :
    field v hi lo = x.toNat ↔ ∀ i < hi + 1 - lo, v.getLsbD (lo + i) = x.getLsbD i := by
  rw [field_eq_extract, BitVec.toNat_inj]
  refine ⟨fun e i hlt => ?_, fun e => BitVec.eq_of_getLsbD_eq fun i hlt => ?_⟩
  · rw [← e, BitVec.getLsbD_extractLsb', decide_eq_true hlt, Bool.true_and]
  · rw [BitVec.getLsbD_extractLsb', decide_eq_true hlt, Bool.true_and, e i hlt]

/-- A field is zero when each of its bits is. -/
theorem field_eq_zero_iff (v : Word) (hi lo : Nat) :
    field v hi lo = 0 ↔ ∀ i, lo ≤ i → i ≤ hi → v.getLsbD i = false := by
  refine Iff.trans (by rw [BitVec.toNat_zero]) ((field_eq_iff v hi lo 0#_).trans ⟨fun e i h1 h2 => ?_, fun e i hlt => ?_⟩)
  · obtain ⟨d, rfl⟩ := Nat.exists_eq_add_of_le h1
    rw [e d (by omega), BitVec.getLsbD_zero]
  · rw [e _ (by omega) (by omega), BitVec.getLsbD_zero]

/-- The bits of the mask of the bits from `lo` to `hi`, ones shifted up. -/
theorem getLsbD_span {hi lo : Nat} (h : lo ≤ hi) (i : Nat) :
    (BitVec.ofNat 32 (2 ^ (hi + 1) - 2 ^ lo)).getLsbD i = decide (i < 32 ∧ lo ≤ i ∧ i ≤ hi) := by
  have hs : 2 ^ (hi + 1) - 2 ^ lo = (2 ^ (hi + 1 - lo) - 1) <<< lo := by
    rw [Nat.shiftLeft_eq, Nat.sub_mul, Nat.one_mul, ← Nat.pow_add]; congr 2; omega
  rw [BitVec.getLsbD_ofNat, hs, Nat.testBit_shiftLeft, Nat.testBit_two_pow_sub_one, ← Bool.decide_and, ← Bool.decide_and]
  exact decide_eq_decide.2 (by omega)

/-- The mask of a list of fields: where it has a bit. -/
theorem getLsbD_maskOf {u : UnusedFields} (h : ∀ f ∈ u, f.2 ≤ f.1) (i : Nat) :
    (BitVec.ofNat 32 (maskOf u)).getLsbD i = true ↔ i < 32 ∧ ∃ f ∈ u, f.2 ≤ i ∧ i ≤ f.1 := by
  suffices key : ∀ m, (BitVec.ofNat 32 (u.foldl (fun m f => m ||| (2 ^ (f.1 + 1) - 2 ^ f.2)) m)).getLsbD i = true ↔
      (BitVec.ofNat 32 m).getLsbD i = true ∨ i < 32 ∧ ∃ f ∈ u, f.2 ≤ i ∧ i ≤ f.1 by
    rw [maskOf, key, BitVec.getLsbD_ofNat, Nat.zero_testBit]; simp
  induction u with
  | nil => simp
  | cons f rest ih =>
    intro m
    rw [List.foldl_cons, ih (List.forall_mem_cons.1 h).2, BitVec.ofNat_or, BitVec.getLsbD_or, Bool.or_eq_true,
      getLsbD_span (List.forall_mem_cons.1 h).1, decide_eq_true_eq]
    simp only [List.exists_mem_cons_iff]
    tauto

/-- The unused fields of a row are zero exactly when its mask is (30_encoding.md R89). -/
theorem fieldsZero_iff {u : UnusedFields} (h : ∀ f ∈ u, f.2 ≤ f.1) (w : Word) :
    fieldsZero w u = true ↔ w &&& .ofNat 32 (maskOf u) = 0 := by
  simp only [fieldsZero, List.all_eq_true, decide_eq_true_eq, field_eq_zero_iff]
  have hm : w &&& .ofNat 32 (maskOf u) = 0 ↔
      ∀ i < 32, w.getLsbD i = true → (BitVec.ofNat 32 (maskOf u)).getLsbD i = false := by
    refine ⟨fun e i _ hw => ?_, fun e => BitVec.eq_of_getLsbD_eq fun i hlt => ?_⟩
    · simpa [hw] using congrArg (BitVec.getLsbD · i) e
    · cases hw : w.getLsbD i
      · simp [hw]
      · simpa [hw] using e i hlt hw
  rw [hm]
  refine ⟨fun e i _ hw => ?_, fun e f hf i h1 h2 => ?_⟩
  · refine Bool.eq_false_iff.2 fun hb => ?_
    obtain ⟨-, f, hf, h1, h2⟩ := (getLsbD_maskOf h i).1 hb
    exact absurd hw (by rw [e f hf i h1 h2]; decide)
  · refine Bool.eq_false_iff.2 fun hw => ?_
    have hlt : i < 32 := BitVec.lt_of_getLsbD hw
    exact absurd ((getLsbD_maskOf h i).2 ⟨hlt, f, hf, h1, h2⟩) (by rw [e i hlt hw]; decide)

/-- A field is all ones exactly when its mask lies within the word. -/
theorem field_full_iff {hi lo : Nat} (h : lo ≤ hi) (hh : hi < 32) (w : Word) :
    w &&& .ofNat 32 (2 ^ (hi + 1) - 2 ^ lo) = .ofNat 32 (2 ^ (hi + 1) - 2 ^ lo) ↔
      field w hi lo = 2 ^ (hi + 1 - lo) - 1 := by
  rw [← BitVec.toNat_allOnes, field_eq_iff]
  refine ⟨fun e i hlt => ?_, fun e => BitVec.eq_of_getLsbD_eq fun i _ => ?_⟩
  · have hb := congrArg (BitVec.getLsbD · (lo + i)) e
    simp only [BitVec.getLsbD_and, getLsbD_span h, show lo + i < 32 ∧ lo ≤ lo + i ∧ lo + i ≤ hi by omega] at hb
    simpa [hlt] using hb
  · rw [BitVec.getLsbD_and, getLsbD_span h]
    by_cases hs : lo ≤ i ∧ i ≤ hi
    · obtain ⟨d, rfl⟩ := Nat.exists_eq_add_of_le hs.1
      rw [e d (by omega), BitVec.getLsbD_allOnes, decide_eq_true (show d < hi + 1 - lo by omega), Bool.true_and]
    · simp [hs]

theorem formatCode_lt {f : PixelFormat} (h : f.wf = true) : formatCode f < 64 := by
  cases f with
  | unassigned n => simp only [PixelFormat.wf, decide_eq_true_eq] at h; simp only [formatCode]; omega
  | _ => simp [formatCode]

theorem formatOfCode_formatCode {f : PixelFormat} (h : f.wf = true) : formatOfCode (formatCode f) = f := by
  cases f with
  | unassigned n =>
    simp only [PixelFormat.wf, decide_eq_true_eq] at h
    obtain ⟨k, rfl⟩ := Nat.exists_eq_add_of_le h.1
    rw [Nat.add_comm]; rfl
  | _ => rfl

theorem formatCode_formatOfCode (n : Nat) : formatCode (formatOfCode n) = n := by
  match n with
  | 0 | 1 | 2 | 3 | 4 | 5 | 6 | 7 | 8 | 9 | 10 | 11 | 12 => rfl
  | n + 13 => rfl

/-- The first word of a format L command, below bit 14: opcode and format code (30_encoding.md R88). -/
theorem encodeLine_low {op code : Nat} (ho : op < 256) (hc : code < 64) (a : LineArgs) :
    (encodeLine op code a)[0] &&& 0x3FFF#32 = .ofNat 32 (op + code * 256) := by
  apply BitVec.eq_of_toNat_eq
  unfold encodeLine
  cases a.desc with
  | none =>
    rw [commandOfNats_zero, and_ofNat_toNat, BitVec.toNat_ofNat, show 0x3FFF = 2 ^ 14 - 1 by rfl, and_low_mask]
    omega
  | some d =>
    rw [commandOfNats_zero, and_ofNat_toNat, BitVec.toNat_ofNat, show 0x3FFF = 2 ^ 14 - 1 by rfl, and_low_mask, atBit]
    omega

end Sys2Proof
end

