-- ==== Sys2Proof/Laws/PackedGroups.lean ====
section
/-! SUPPORT. What the packed bytes of one group of each format read back as, and the two layouts' round trips. -/

namespace Sys2Proof.Machine

/-! ## Reading back -/

/-- Where the bytes of `xs.flatMap (bytesLE u)` lie from `base` on, number `i` of them reads back. -/
theorem memRead_units {m : Memory} {base u : Nat} {xs : List Nat} {bs : List Byte} (hbs : bs = xs.flatMap (bytesLE u))
    (h : ∀ j < bs.length, some (memByte m (base + j)) = bs[j]?) {i v : Nat} (hv : xs[i]? = some v) :
    memRead m (base + u * i) u = v % 2 ^ (8 * u) := by
  apply memRead_bytesLE
  intro b hb
  obtain ⟨hi, -⟩ := List.getElem?_eq_some_iff.1 hv
  have hl : bs.length = u * xs.length := by rw [hbs]; exact length_flatMap_of _ _ fun _ _ => bytesLE_length _ _
  have := h (u * i + b) (hl ▸ place_lt hi hb)
  rw [hbs, getElem?_flatMap_of (bytesLE u) xs (fun _ _ => bytesLE_length _ _) hb v hv, bytesLE_getElem? hb] at this
  rw [Nat.add_assoc]
  exact Option.some.inj this

theorem memReadBE_units {m : Memory} {base u : Nat} {xs : List Nat} {bs : List Byte} (hbs : bs = xs.flatMap (bytesBE u))
    (h : ∀ j < bs.length, some (memByte m (base + j)) = bs[j]?) {i v : Nat} (hv : xs[i]? = some v) :
    memReadBE m (base + u * i) u = v % 2 ^ (8 * u) := by
  apply memReadBE_bytesBE
  intro b hb
  obtain ⟨hi, -⟩ := List.getElem?_eq_some_iff.1 hv
  have hl : bs.length = u * xs.length := by rw [hbs]; exact length_flatMap_of _ _ fun _ _ => bytesBE_length _ _
  have := h (u * i + b) (hl ▸ place_lt hi hb)
  rw [hbs, getElem?_flatMap_of (bytesBE u) xs (fun _ _ => bytesBE_length _ _) hb v hv, bytesBE_getElem? hb] at this
  rw [Nat.add_assoc]
  exact Option.some.inj this

/-- A multi-byte read determines its bytes. -/
theorem memRead_inj {m m' : Memory} {a a' n : Nat} (h : memRead m a n = memRead m' a' n) :
    ∀ i < n, memByte m (a + i) = memByte m' (a' + i) := by
  induction n generalizing a a' with
  | zero => exact fun i hi => absurd hi i.not_lt_zero
  | succ n ih =>
    have h1 := (memByte m a).isLt
    have h2 := (memByte m' a').isLt
    rw [memRead, memRead] at h
    exact bytesAgree_succ.2 ⟨BitVec.eq_of_toNat_eq (by omega), ih (by omega)⟩

theorem memReadBE_inj {m m' : Memory} {a a' n : Nat} (h : memReadBE m a n = memReadBE m' a' n) :
    ∀ i < n, memByte m (a + i) = memByte m' (a' + i) := by
  induction n generalizing a a' with
  | zero => exact fun i hi => absurd hi i.not_lt_zero
  | succ n ih =>
    rw [memReadBE, memReadBE] at h
    have rest : ∀ (x r : Nat), r < 2 ^ (8 * n) → (x * 2 ^ (8 * n) + r) % 2 ^ (8 * n) = r := fun x r hr => by
      rw [Nat.mul_add_mod', Nat.mod_eq_of_lt hr]
    have low : memReadBE m (a + 1) n = memReadBE m' (a' + 1) n := by
      rw [← rest _ _ (memReadBE_lt m (a + 1) n), h, rest _ _ (memReadBE_lt ..)]
    rw [low] at h
    exact bytesAgree_succ.2
      ⟨BitVec.eq_of_toNat_eq (Nat.eq_of_mul_eq_mul_right (Nat.two_pow_pos _) (Nat.add_right_cancel h)), ih low⟩

/-! ## Fields OR-ed together -/

/-- A field above `n` bits that hold `x` is added to them. -/
theorem or_shift_eq_add {x y n : Nat} (h : x < 2 ^ n) : x ||| y <<< n = x + y * 2 ^ n := by
  have e := Nat.two_pow_add_eq_or_of_lt h y
  rw [Nat.mul_comm] at e
  rw [Nat.lor_comm, Nat.shiftLeft_eq, ← e, Nat.add_comm]

theorem shift_or_eq_add {x y n : Nat} (h : x < 2 ^ n) : y <<< n ||| x = y * 2 ^ n + x := by
  rw [Nat.lor_comm, or_shift_eq_add h, Nat.add_comm]

/-- Three ten-bit fields (41_line_codec.md R154). -/
theorem tenBitWord {x y z : Nat} (hx : x ≤ 0x3FF) (hy : y ≤ 0x3FF) :
    x ||| y <<< 10 ||| z <<< 20 = x + y * 2 ^ 10 + z * 2 ^ 20 := by
  rw [or_shift_eq_add (n := 10) (by omega), or_shift_eq_add (n := 20) (by omega)]

/-- R, G, B and the two alpha bits (41_line_codec.md R166). -/
theorem rgbWord {r g b a : Nat} (hg : g ≤ 0x3FF) (hb : b ≤ 0x3FF) (ha : a ≤ 0x3) :
    r <<< 22 ||| g <<< 12 ||| b <<< 2 ||| a = r * 2 ^ 22 + g * 2 ^ 12 + b * 2 ^ 2 + a := by
  rw [Nat.or_assoc, Nat.or_assoc, shift_or_eq_add (n := 2) (x := a) (by omega),
    shift_or_eq_add (n := 12) (by omega), shift_or_eq_add (n := 22) (by omega)]
  omega

/-! ## The PACK rules' groups -/

theorem cellsOfGroup_getElem? {fmt : PixelFormat} {gB gC gP : Nat} (hg : elementGeometry fmt = ⟨gB, gC, gP⟩)
    (a : LineArgs) (s : State) (k : Nat) {j : Nat} (hj : j < gC) :
    (cellsOfGroup fmt a s.mem k)[j]? = some (compCell s a (gC * k + j)) := by
  simp [cellsOfGroup, hg, hj]

@[simp] theorem cellsOfGroup_length (fmt : PixelFormat) (a : LineArgs) (m : Memory) (k : Nat) :
    (cellsOfGroup fmt a m k).length = (elementGeometry fmt).componentsPerElement := by simp [cellsOfGroup]

/-- The `require` line of a `PACK` rule, cell by cell. -/
theorem cellsFit_iff {cells maxima : List Nat} (hl : cells.length = maxima.length) :
    cellsFit cells maxima = true ↔ ∀ j < cells.length, cells.getD j 0 ≤ maxima.getD j 0 := by
  induction cells generalizing maxima with
  | nil => simp [cellsFit]
  | cons c cells ih =>
    cases maxima with
    | nil => simp at hl
    | cons x maxima =>
      have ih' := ih (maxima := maxima) (by simpa using hl)
      have step : cellsFit (c :: cells) (x :: maxima) = true ↔ c ≤ x ∧ cellsFit cells maxima = true := by simp [cellsFit]
      rw [step, ih', List.length_cons, Nat.forall_lt_succ_left]
      exact Iff.rfl

theorem getD_replicate {n x j : Nat} (h : j < n) : (List.replicate n x).getD j 0 = x := by
  rw [List.getD_eq_getElem?_getD, List.getElem?_replicate, if_pos h, Option.getD_some]

theorem packY10P_some {word : WordWriter} {cells : List Nat} (hl : cells.length = 12) (hf : ∀ j < 12, cells.getD j 0 ≤ 0x3FF) :
    packY10P word cells = some (((List.range 4).map fun i =>
      cells.getD (3 * i) 0 ||| cells.getD (3 * i + 1) 0 <<< 10 ||| cells.getD (3 * i + 2) 0 <<< 20).flatMap word) := by
  rw [packY10P, if_pos ((cellsFit_iff (by simp [hl])).2 fun j hj => by
    rw [hl] at hj
    rw [getD_replicate hj]; exact hf j hj)]
  rw [List.flatMap_map]

theorem packBytes_some {n : Nat} {cells : List Nat} (hl : cells.length = n) (hf : ∀ j < n, cells.getD j 0 ≤ 0xFF) :
    packBytes n cells = some (cells.flatMap (bytesLE 1)) := by
  rw [packBytes, if_pos ((cellsFit_iff (by simp [hl])).2 fun j hj => by
    rw [hl] at hj
    rw [getD_replicate hj]; exact hf j hj)]

theorem packRGB10P_some {word : WordWriter} {cells : List Nat} (hl : cells.length = 4)
    (hf : ∀ j < 4, cells.getD j 0 ≤ if j = 3 then 0x3 else 0x3FF) :
    packRGB10P word cells = some ([cells.getD 0 0 <<< 22 ||| cells.getD 1 0 <<< 12 ||| cells.getD 2 0 <<< 2 |||
      cells.getD 3 0].flatMap word) := by
  rw [packRGB10P, if_pos ((cellsFit_iff (by simp [hl])).2 fun j hj => by
    rw [hl] at hj
    have := hf j hj
    match j, hj with
    | 0, _ | 1, _ | 2, _ | 3, _ => simpa using this)]
  simp

/-! ## The layout of a 20-byte group -/

theorem joinSamples_eq {cells : List Nat} (h : ∀ j < cells.length, cells.getD j 0 ≤ 0x3FF) :
    joinSamples cells = ((List.range cells.length).map fun j => cells.getD j 0 <<< (10 * j)).sum ∧
      joinSamples cells < 2 ^ (10 * cells.length) ∧
      ∀ j < cells.length, bitsAt (joinSamples cells) (10 * j) 10 = cells.getD j 0 := by
  induction cells with
  | nil => simp [joinSamples]
  | cons c cells ih =>
    have hc : c ≤ 0x3FF := by simpa using h 0 (by simp)
    obtain ⟨h1, h2, h3⟩ := ih fun j hj => by simpa using h (j + 1) (by simpa using hj)
    have hj : joinSamples (c :: cells) = c + joinSamples cells * 2 ^ 10 := by
      rw [joinSamples, or_shift_eq_add (n := 10) (by omega)]
    refine ⟨?_, ?_, ?_⟩
    · rw [hj, h1, List.length_cons, List.range_succ_eq_map, List.map_cons, List.sum_cons, List.map_map]
      rw [List.getD_cons_zero, Nat.mul_zero, Nat.shiftLeft_zero, Nat.mul_comm, ← List.sum_map_mul_left]
      congr 2
      apply List.map_congr_left
      intro j _
      show 2 ^ 10 * (cells.getD j 0 <<< (10 * j)) = (c :: cells).getD (j + 1) 0 <<< (10 * (j + 1))
      rw [List.getD_cons_succ, Nat.shiftLeft_eq, Nat.shiftLeft_eq, Nat.mul_succ, Nat.pow_add, Nat.mul_left_comm,
        Nat.mul_comm (2 ^ 10)]
    · rw [hj, List.length_cons, Nat.mul_succ, Nat.pow_add]
      omega
    · intro j hlt
      rw [hj, bitsAt_eq]
      cases j with
      | zero => simp only [Nat.mul_zero, Nat.pow_zero, Nat.div_one, List.getD_cons_zero]; omega
      | succ j =>
        have := h3 j (by simpa using hlt)
        rw [bitsAt_eq] at this
        rw [List.getD_cons_succ, ← this, Nat.mul_succ, Nat.pow_add, Nat.mul_comm (2 ^ (10 * j)), ← Nat.div_div_eq_div_mul]
        congr 2
        omega

theorem packPL2_some {l : ParamChoice} {cells : List Nat} (hl : cells.length = 16) (hf : ∀ j < 16, cells.getD j 0 ≤ 0x3FF) :
    packPL2 l cells = some ([((layoutPerm l).symm (.ofNat 160 (joinSamples cells))).toNat].flatMap (bytesLE 20)) := by
  rw [packPL2, if_pos ((cellsFit_iff (by simp [hl])).2 fun j hj => by
    rw [hl] at hj
    rw [getD_replicate hj]; exact hf j hj)]
  simp

/-- A number below 2^160 is its sixteen ten-bit fields joined. -/
theorem joinSamples_bits {v : Nat} (n : Nat) (h : v < 2 ^ (10 * n)) :
    joinSamples ((List.range n).map fun j => bitsAt v (10 * j) 10) = v := by
  induction n generalizing v with
  | zero => simp at h; simp [joinSamples, h]
  | succ n ih =>
    rw [List.range_succ_eq_map, List.map_cons, List.map_map, joinSamples,
      or_shift_eq_add (n := 10) (bitsAt_lt _ _ _)]
    have : ((fun j => bitsAt v (10 * j) 10) ∘ Nat.succ) = fun j => bitsAt (v / 2 ^ 10) (10 * j) 10 := by
      funext j
      simp only [Function.comp, bitsAt_eq, Nat.mul_succ, Nat.div_div_eq_div_mul]
      rw [Nat.add_comm, Nat.pow_add]
    rw [this, ih (by rw [Nat.mul_succ, Nat.pow_add] at h; exact Nat.div_lt_of_lt_mul (by rw [Nat.mul_comm]; exact h)), bitsAt_eq]
    simp only [Nat.mul_zero, Nat.pow_zero, Nat.div_one]
    omega

theorem ofNat_memRead_twenty_inj {m m' : Memory} {a a' : Nat}
    (h : BitVec.ofNat 160 (memRead m a 20) = BitVec.ofNat 160 (memRead m' a' 20)) : memRead m a 20 = memRead m' a' 20 := by
  have e := congrArg BitVec.toNat h
  rw [BitVec.toNat_ofNat, BitVec.toNat_ofNat] at e
  rwa [Nat.mod_eq_of_lt (memRead_lt m a 20), Nat.mod_eq_of_lt (memRead_lt m' a' 20)] at e

/-- Whatever the layout is, a 20-byte group's samples determine its bytes (41_line_codec.md R169: it is a bijection). -/
theorem groupPL2_eq_iff {l : ParamChoice} {m m' : Memory} {a a' : Nat} :
    groupPL2 l m a = groupPL2 l m' a' ↔ ∀ i < 20, memByte m (a + i) = memByte m' (a' + i) := by
  refine ⟨fun h => memRead_inj ?_, fun h => by rw [groupPL2, groupPL2, memRead_congr h]⟩
  have joined : ∀ v : BitVec 160, joinSamples ((List.range 16).map fun j => bitsAt v.toNat (10 * j) 10) = v.toNat :=
    fun v => joinSamples_bits 16 v.isLt
  have e := congrArg joinSamples h
  rw [groupPL2, groupPL2, joined, joined] at e
  exact ofNat_memRead_twenty_inj ((layoutPerm l).injective (BitVec.eq_of_toNat_eq e))

end Sys2Proof.Machine
end

