-- ==== Sys2Proof/Laws/OversizeSample.lean ====
section
/-! SUPPORT. Where a sample does not fit (41_line_codec.md R172): which commands leave bytes undefined, and what the
machine's step does with each action of its host. -/

namespace Sys2Proof.Machine

/-- A `PACK` leaves bytes undefined exactly where its checks and the premises pass and some cell is wider than its field. -/
theorem packEffect_leavesUndefined (fmt : PixelFormat) (pack : List Nat → Option (List Byte)) (a : LineArgs) (s : State) :
    leavesUndefined (packEffect fmt pack a s) = true ↔
      lineFailure fmt a = none ∧
        ¬ writesOverRead [⟨a.compAddr, compBytes fmt a⟩] [⟨a.packedAddr, packedBytes fmt a⟩] ∧
        ¬ touchesUnbacked s [⟨a.compAddr, compBytes fmt a⟩, ⟨a.packedAddr, packedBytes fmt a⟩] ∧
        everyGroupFits fmt pack a s.mem = false := by
  unfold packEffect
  cases lineFailure fmt a with
  | some code => simp [leavesUndefined]
  | none =>
    rcases guarded_cases s [⟨a.compAddr, compBytes fmt a⟩] [⟨a.packedAddr, packedBytes fmt a⟩]
      (.done statusDone noResults [(a.packedAddr, (List.range (groupCount fmt a)).flatMap (packedGroup fmt pack a s))]
        (if everyGroupFits fmt pack a s.mem then 0 else 1)) with ⟨h, h'⟩ | ⟨h, hu, h'⟩ | ⟨h, hu, h'⟩ <;> dsimp only <;> rw [h']
    · simp [leavesUndefined, h]
    · simp only [List.singleton_append] at hu
      simp [leavesUndefined, hu]
    · simp only [List.singleton_append] at hu
      simp [leavesUndefined, h, hu]

theorem guarded_leavesUndefined {s : State} {reads writes : List Range} {e : Effect} (h : leavesUndefined e = false) :
    leavesUndefined (guarded s reads writes e) = false := by
  rcases guarded_cases s reads writes e with ⟨-, h'⟩ | ⟨-, -, h'⟩ | ⟨-, -, h'⟩ <;> rw [h'] <;> first | rfl | exact h

/-- Whatever checks a command makes, one whose success draws no free value leaves nothing undefined. -/
theorem checked_leavesUndefined (check : Option FailCode) {s : State} {reads writes : List Range} {status : Word}
    {res : Vector Word 12} {runs : List Run} :
    leavesUndefined (match check with
      | some code => .failed code .notMade
      | none => guarded s reads writes (.done status res runs 0)) = false := by
  cases check
  · exact guarded_leavesUndefined rfl
  · rfl

/-- No command but a `PACK` with a codec leaves bytes undefined. -/
theorem leavesUndefined_effectOf {i : Instr} {s : State} (h : leavesUndefined (effectOf i s) = true) :
    ∃ p ∈ codecPairs, ∃ a, i = p.pack a := by
  simp only [codecPairs, List.mem_cons, List.not_mem_nil, or_false, exists_eq_or_imp, exists_eq_left]
  have defined {e : Effect} (he : leavesUndefined e = false) : leavesUndefined e ≠ true := by rw [he]; exact Bool.false_ne_true
  cases i
  case packY10P a => simp
  case packY10P_BE a => simp
  case packY8P a => simp
  case packRGB24 a => simp
  case packRGBA32 a => simp
  case packRGB48 a => simp
  case packRGB10P a => simp
  case packRGB10P_BE a => simp
  case packY10_420_PL2 a => simp
  case geom => cases h
  case desc fmt vm r =>
    refine absurd h (defined ?_)
    unfold effectOf effectDesc
    dsimp only
    split <;> rfl
  case cmpv fmt vm v =>
    refine absurd h (defined ?_)
    unfold effectOf effectCmpv
    dsimp only
    split
    · rfl
    · split
      · rfl
      · split
        · rfl
        · exact checked_leavesUndefined _
  case blit fmt b =>
    refine absurd h (defined ?_)
    unfold effectOf effectBlit
    dsimp only
    split
    · rfl
    · split
      · rfl
      · split
        · rfl
        · split
          · rfl
          · exact guarded_leavesUndefined rfl
  all_goals exact absurd h (defined (by first | rfl | exact checked_leavesUndefined _))

/-! ## The `require` lines, cell by cell -/

theorem packY10P_isSome {word : WordWriter} {cells : List Nat} (hl : cells.length = 12) :
    (packY10P word cells).isSome = true ↔ ∀ j < 12, cells.getD j 0 ≤ 0x3FF := by
  rw [packY10P, Option.isSome_ite, cellsFit_iff (by simp [hl]), hl]
  exact forall₂_congr fun j hj => by rw [getD_replicate hj]

theorem packBytes_isSome {n : Nat} {cells : List Nat} (hl : cells.length = n) :
    (packBytes n cells).isSome = true ↔ ∀ j < n, cells.getD j 0 ≤ 0xFF := by
  rw [packBytes, Option.isSome_ite, cellsFit_iff (by simp [hl]), hl]
  exact forall₂_congr fun j hj => by rw [getD_replicate hj]

theorem packRGB48_isSome {cells : List Nat} (hl : cells.length = 3) (hc : ∀ c ∈ cells, c < 2 ^ 16) :
    (packRGB48 cells).isSome = true ↔ ∀ j < 3, cells.getD j 0 ≤ 0xFFFF := by
  refine iff_of_true rfl fun j hj => Nat.le_of_lt_succ (hc _ ?_)
  rw [List.getD_eq_getElem cells 0 (by omega)]
  exact List.getElem_mem _

theorem packRGB10P_isSome {word : WordWriter} {cells : List Nat} (hl : cells.length = 4) :
    (packRGB10P word cells).isSome = true ↔ ∀ j < 4, cells.getD j 0 ≤ if j = 3 then 0x3 else 0x3FF := by
  rw [packRGB10P, Option.isSome_ite, cellsFit_iff (by simp [hl]), hl]
  exact forall₂_congr fun j hj => by
    match j, hj with
    | 0, _ | 1, _ | 2, _ | 3, _ => simp

theorem packPL2_isSome {l : ParamChoice} {cells : List Nat} (hl : cells.length = 16) :
    (packPL2 l cells).isSome = true ↔ ∀ j < 16, cells.getD j 0 ≤ 0x3FF := by
  rw [packPL2, Option.isSome_ite, cellsFit_iff (by simp [hl]), hl]
  exact forall₂_congr fun j hj => by rw [getD_replicate hj]

/-- A component line breaks a `require` where some cell of its whole groups is above its maximum. -/
theorem everyGroupFits_eq_false {fmt : PixelFormat} {gB gC gP : Nat} {maximum : Nat → Nat}
    {pack : List Nat → Option (List Byte)} (hg : elementGeometry fmt = ⟨gB, gC, gP⟩) (hpos : 0 < gC)
    (hp : ∀ cells : List Nat, cells.length = gC → (∀ c ∈ cells, c < 2 ^ 16) →
      ((pack cells).isSome = true ↔ ∀ j < gC, cells.getD j 0 ≤ maximum j))
    (a : LineArgs) (s : State) :
    everyGroupFits fmt pack a s.mem = false ↔
      ∃ n < a.pixelCount / gP * gC, maximum (n % gC) < compCell s a n := by
  have hcell : ∀ k, ∀ j < gC, (cellsOfGroup fmt a s.mem k).getD j 0 = compCell s a (gC * k + j) := fun k j hj => by
    rw [List.getD_eq_getElem?_getD, cellsOfGroup_getElem? hg a s k hj]; rfl
  have hgroup : ∀ k, (pack (cellsOfGroup fmt a s.mem k)).isSome = true ↔
      ∀ j < gC, compCell s a (gC * k + j) ≤ maximum j := fun k => by
    rw [hp _ (by rw [cellsOfGroup_length, hg]) fun c hc => ?_]
    · exact forall₂_congr fun j hj => by rw [hcell k j hj]
    · obtain ⟨j, -, rfl⟩ := List.mem_map.1 hc
      exact memRead_lt ..
  rw [← Bool.not_eq_true, everyGroupFits, List.all_eq_true, groupCount, hg]
  simp only [List.mem_range, hgroup, not_forall, not_le, exists_prop]
  constructor
  · rintro ⟨k, hk, j, hj, h⟩
    refine ⟨gC * k + j, ?_, by rwa [Nat.mul_add_mod, Nat.mod_eq_of_lt hj]⟩
    calc gC * k + j < gC * (k + 1) := by rw [Nat.mul_succ]; omega
      _ ≤ gC * (a.pixelCount / gP) := Nat.mul_le_mul_left _ hk
      _ = a.pixelCount / gP * gC := Nat.mul_comm ..
  · rintro ⟨n, hn, h⟩
    exact ⟨n / gC, Nat.div_lt_of_lt_mul (by rwa [Nat.mul_comm]), n % gC, Nat.mod_lt _ hpos, by rwa [Nat.div_add_mod]⟩

/-- `packEffect_leavesUndefined` in the claims' terms. -/
theorem packEffect_breaks {fmt : PixelFormat} {gB gC gP : Nat} {maximum : Nat → Nat}
    {pack : List Nat → Option (List Byte)} (hg : elementGeometry fmt = ⟨gB, gC, gP⟩) (hc : hasLineCodec fmt = true)
    (hpos : 0 < gC)
    (hp : ∀ cells : List Nat, cells.length = gC → (∀ c ∈ cells, c < 2 ^ 16) →
      ((pack cells).isSome = true ↔ ∀ j < gC, cells.getD j 0 ≤ maximum j))
    (a : LineArgs) (s : State) :
    leavesUndefined (packEffect fmt pack a s) = true ↔
      linePasses fmt gB gC gP a ∧ premises s (compRange gC gP a) (packedRange gB gP a) ∧
        ∃ n < a.pixelCount / gP * gC, maximum (n % gC) < compCell s a n := by
  have hpass : lineFailure fmt a = none ↔ linePasses fmt gB gC gP a := by
    refine ⟨fun h => ?_, lineFailure_of_passes hg hc⟩
    by_contra hn
    rw [lineFailure_of_not_passes hg hc hn] at h
    cases h
  rw [packEffect_leavesUndefined, hpass, everyGroupFits_eq_false hg hpos hp]
  simp only [compBytes, packedBytes, groupCount, hg, premises_iff, List.singleton_append, and_assoc]

/-! ## Commands and steps -/

/-- Each `PACK` row with a codec, by its format's group and maxima. -/
theorem pack_leavesUndefined {p : CodecPair} (hp : p ∈ codecPairs) (a : LineArgs) (s : State) :
    leavesUndefined (effectOf (p.pack a) s) = true ↔
      linePasses p.fmt p.gB p.gC p.gP a ∧ premises s (compRange p.gC p.gP a) (packedRange p.gB p.gP a) ∧
        ∃ n < a.pixelCount / p.gP * p.gC, p.maximum (n % p.gC) < compCell s a n := by
  simp only [codecPairs, List.mem_cons, List.not_mem_nil, or_false] at hp
  rcases hp with rfl | rfl | rfl | rfl | rfl | rfl | rfl | rfl | rfl
  · exact packEffect_breaks rfl rfl (by decide) (fun _ hl _ => packY10P_isSome hl) a s
  · exact packEffect_breaks rfl rfl (by decide) (fun _ hl _ => packY10P_isSome hl) a s
  · exact packEffect_breaks rfl rfl (by decide) (fun _ hl _ => packBytes_isSome hl) a s
  · exact packEffect_breaks rfl rfl (by decide) (fun _ hl _ => packBytes_isSome hl) a s
  · exact packEffect_breaks rfl rfl (by decide) (fun _ hl _ => packBytes_isSome hl) a s
  · exact packEffect_breaks rfl rfl (by decide) (fun _ hl hc => packRGB48_isSome hl hc) a s
  · exact packEffect_breaks rfl rfl (by decide) (fun _ hl _ => packRGB10P_isSome hl) a s
  · exact packEffect_breaks rfl rfl (by decide) (fun _ hl _ => packRGB10P_isSome hl) a s
  · exact packEffect_breaks rfl rfl (by decide) (fun _ hl _ => packPL2_isSome hl) a s

/-- A command leaves bytes undefined exactly where it is a `PACK` that breaks a `require`. -/
theorem effectOf_leavesUndefined (i : Instr) (s : State) : leavesUndefined (effectOf i s) = true ↔ breaksRequire i s := by
  constructor
  · intro h
    obtain ⟨p, hp, a, rfl⟩ := leavesUndefined_effectOf h
    exact ⟨p, hp, a, rfl, (pack_leavesUndefined hp a s).1 h⟩
  · rintro ⟨p, hp, a, rfl, h⟩
    exact (pack_leavesUndefined hp a s).2 h

theorem commandEffect_leavesUndefined (s : State) :
    leavesUndefined (commandEffect s) = true ↔ ∃ i, decode s.cmd = .ok i ∧ breaksRequire i s := by
  unfold commandEffect
  cases decode s.cmd with
  | ok i => simp [effectOf_leavesUndefined]
  | error e => simp [leavesUndefined]

/-- `GO` is bit 0 of what is written (10_state.md R23). -/
theorem goBit_iff (v : Word) : goBit v = true ↔ v &&& 1 = 1 := by
  rw [goBit, flag, field, decide_eq_true_eq, BitVec.toNat_eq]
  simp [BitVec.toNat_and]

/-- The actions that start an operation, and no others, may be refused for a sample that does not fit. -/
theorem startsUndefined_iff (action : HostAction) (s : State) :
    startsUndefined action s = true ↔
      ((∃ v, action = .writeReg 0x40 v ∧ v &&& 1 = 1) ∨ action = .goThenReset) ∧
        ∃ i, decode s.cmd = .ok i ∧ breaksRequire i s := by
  rw [← commandEffect_leavesUndefined]
  cases action <;> simp [startsUndefined, ctrlOffset, goBit_iff, and_assoc]

/-- All a step can be: idle, refused for a sample that does not fit, or the host's next action performed. -/
theorem step_cases (s : State) :
    (s.pending = [] ∧ step s = .next s) ∨
      ∃ action rest, s.pending = action :: rest ∧
        (startsUndefined action s = true ∧ step s = .refused .oversizeSample ∨
          startsUndefined action s = false ∧ step s = perform action { s with pending := rest }) := by
  unfold step nextAction
  cases s.pending with
  | nil => exact .inl ⟨rfl, rfl⟩
  | cons action rest => cases h : startsUndefined action s <;> simp [h]

end Sys2Proof.Machine
end

