-- ==== Sys2Proof/Laws/PerInstr.lean ====
section
/-! SUPPORT. The family `LegalWords`, made once per command: the words of a well-formed command are words that the mask table
of 30_encoding.md section 5 accepts, with no reserved depth (R89, R90). -/

namespace Sys2Proof.Laws

open Sys2Proof.Machine

/-- The words of a command are legal, whenever its operands are words. -/
def LegalWords.Statement (i : Instr) : Prop := WellFormed i → legalCommand (encode i)

/-! ## The mask table's rows, by fields -/

/-- A row of the mask table without a bit that must be one accepts the words that have its opcode and zeros in its unused
fields and words. -/
theorem accepts_of_fields {cmd : Command} {op first : Nat} {u : UnusedFields} (hu : ∀ f ∈ u, f.2 ≤ f.1)
    (hop : field cmd[0] 7 0 = op) (hz : fieldsZero cmd[0] u = true) (hw : wordsZeroFrom first cmd = true) :
    (⟨.ofNat 32 op, 0, .ofNat 32 (maskOf u), first⟩ : CommandForm).accepts cmd := by
  refine ⟨?_, by simp, (fieldsZero_iff hu _).1 hz, of_decide_eq_true hw⟩
  apply BitVec.eq_of_toNat_eq
  have h8 : cmd[0].toNat % 2 ^ 8 = op := by simpa [field] using hop
  rw [BitVec.toNat_and, BitVec.toNat_ofNat, BitVec.toNat_ofNat, show 0xFF % 2 ^ 32 = 2 ^ 8 - 1 by rfl, and_low_mask, h8]
  omega

/-- A row with `HD` one accepts the words that have it too. -/
theorem accepts_of_fields_flag {cmd : Command} {op first : Nat} {u : UnusedFields} (hu : ∀ f ∈ u, f.2 ≤ f.1)
    (hop : field cmd[0] 7 0 = op) (hf : field cmd[0] 20 20 = 1) (hz : fieldsZero cmd[0] u = true)
    (hw : wordsZeroFrom first cmd = true) :
    (⟨.ofNat 32 op, .ofNat 32 (2 ^ 21 - 2 ^ 20), .ofNat 32 (maskOf u), first⟩ : CommandForm).accepts cmd := by
  obtain ⟨h1, -, h3, h4⟩ := accepts_of_fields hu hop hz hw
  exact ⟨h1, (field_full_iff (Nat.le_refl 20) (by omega) _).2 hf, h3, h4⟩

/-- An opcode other than the converter's has no depth to be reserved. -/
theorem depthsLegal_of_op {cmd : Command} {op : Nat} (hop : field cmd[0] 7 0 = op) (h : op ≠ 0x20 ∧ op ≠ 0x21 ∧ op ≠ 0x22) :
    depthsLegal cmd := by
  have h8 : (cmd[0] &&& 0xFF#32).toNat = op := by
    rw [BitVec.toNat_and, BitVec.toNat_ofNat, show 0xFF % 2 ^ 32 = 2 ^ 8 - 1 by rfl, and_low_mask, ← hop]
    simp [field]
  refine ⟨fun hm => ?_, fun hm => ?_⟩
  · simp only [List.mem_cons, List.not_mem_nil, or_false] at hm
    rcases hm with hm | hm | hm <;> rw [hm] at h8 <;> simp at h8 <;> omega
  · rw [hm] at h8; simp at h8; omega

/-- Depth fields below 3 are legal. -/
theorem depthsLegal_of_depths {cmd : Command} (h1 : field cmd[0] 27 26 < 3) (h2 : field cmd[0] 7 0 = 0x22 → field cmd[0] 29 28 < 3) :
    depthsLegal cmd := by
  refine ⟨fun _ hm => ?_, fun hop hm => ?_⟩
  · have := (field_full_iff (hi := 27) (lo := 26) (by omega) (by omega) _).1 hm; omega
  · have := (field_full_iff (hi := 29) (lo := 28) (by omega) (by omega) _).1 hm
    have h8 : field cmd[0] 7 0 = 0x22 := by
      have := congrArg BitVec.toNat hop
      rw [BitVec.toNat_and, BitVec.toNat_ofNat, show 0xFF % 2 ^ 32 = 2 ^ 8 - 1 by rfl, and_low_mask] at this
      simpa [field] using this
    have := h2 h8
    omega

/-! ## The formats -/

theorem depthCode_lt (d : Depth) : depthCode d < 3 := by cases d <;> decide

theorem quadrantCode_lt (q : Quadrant) : quadrantCode q < 4 := by cases q <;> decide

/-- Format L. -/
theorem legal_encodeLine {op code : Nat} (ho : op = 0x10 ∨ op = 0x11) (hc : code < 64) {a : LineArgs} (ha : a.wf = true) :
    legalCommand (encodeLine op code a) := by
  have hdep : field (encodeLine op code a)[0] 7 0 = op ∧
      ∃ f ∈ commandForms, f.accepts (encodeLine op code a) := by
    unfold encodeLine
    cases hd : a.desc with
    | none =>
      dsimp only
      have hlt : op + code * 2 ^ 8 < 2 ^ 32 := by omega
      have hop : field (commandOfNats (op + code * 2 ^ 8) a.packedAddr a.packedLen a.compAddr a.compLen a.pixelCount
          0 0 0 0 0 0 0 0 0 0)[0] 7 0 = op := by rw [commandOfNats_zero, field_ofNat hlt]; norm_num; omega
      refine ⟨hop, _, ?_, accepts_of_fields (u := blitUnused) (first := 6) (by decide) hop ?_ ?_⟩
      · rcases ho with rfl | rfl <;> decide
      · rw [commandOfNats_zero]
        refine fieldsZero_ofNat hlt ?_
        simp [blitUnused]; omega
      · exact wordsZeroFrom_of (fun i => commandOfNats_get ..) (by simp)
    | some d =>
      dsimp only
      have hb : d.vm.toNat < 2 := Bool.toNat_lt _
      have hdf : formatCode d.dfmt < 64 := by
        apply formatCode_lt
        simp only [LineArgs.wf, hd, Option.all_some, LineDescriptor.wf, Bool.and_eq_true] at ha
        exact ha.2.1
      generalize hv : atBit d.vm 21 = v
      have hvb : v = 0 ∨ v = 2 ^ 21 := by rw [← hv, atBit]; omega
      have hlt : op + code * 2 ^ 8 + formatCode d.dfmt * 2 ^ 14 + 2 ^ 20 + v < 2 ^ 32 := by omega
      have hop : field (commandOfNats (op + code * 2 ^ 8 + formatCode d.dfmt * 2 ^ 14 + 2 ^ 20 + v) a.packedAddr
          a.packedLen a.compAddr a.compLen a.pixelCount d.size.width d.size.activeHeight d.size.vancLines
          0 0 0 0 0 0 0)[0] 7 0 = op := by rw [commandOfNats_zero, field_ofNat hlt]; norm_num; omega
      refine ⟨hop, _, ?_, accepts_of_fields_flag (u := lineUnused) (first := 9) (by decide) hop ?_ ?_ ?_⟩
      · rcases ho with rfl | rfl <;> decide
      · rw [commandOfNats_zero, field_ofNat hlt]; norm_num; omega
      · rw [commandOfNats_zero]
        refine fieldsZero_ofNat hlt ?_
        simp [lineUnused]; omega
      · exact wordsZeroFrom_of (fun i => commandOfNats_get ..) (by simp)
  exact ⟨hdep.2, depthsLegal_of_op hdep.1 (by omega)⟩

/-- Formats with one word of fields: the words a first word and some operands spell, by that word's fields. -/
theorem legal_of_word {op first w0 : Nat} {u : UnusedFields} {cmd : Command} (hlt : w0 < 2 ^ 32) (h0 : cmd[0] = .ofNat 32 w0)
    (hrow : ⟨.ofNat 32 op, 0, .ofNat 32 (maskOf u), first⟩ ∈ commandForms) (hu : ∀ f ∈ u, f.2 ≤ f.1)
    (hop : w0 % 256 = op) (hz : ∀ f ∈ u, w0 / 2 ^ f.2 % 2 ^ (f.1 + 1 - f.2) = 0) (hw : wordsZeroFrom first cmd = true)
    (hd : op = 0x20 ∨ op = 0x21 ∨ op = 0x22 → w0 / 2 ^ 26 % 4 < 3 ∧ (op = 0x22 → w0 / 2 ^ 28 % 4 < 3)) :
    legalCommand cmd := by
  have hf : field cmd[0] 7 0 = op := by rw [h0, field_ofNat hlt]; simpa using hop
  refine ⟨⟨_, hrow, accepts_of_fields hu hf (by rw [h0]; exact fieldsZero_ofNat hlt hz) hw⟩, ?_⟩
  by_cases h : op = 0x20 ∨ op = 0x21 ∨ op = 0x22
  · obtain ⟨h1, h2⟩ := hd h
    refine depthsLegal_of_depths ?_ fun h22 => ?_
    · rw [h0, field_ofNat hlt]; exact h1
    · rw [h0, field_ofNat hlt]; exact h2 (by omega)
  · exact depthsLegal_of_op hf (by omega)

/-! ## One lemma per command -/

theorem LegalWords.geom (fmt : PixelFormat) : LegalWords.Statement (.geom fmt) :=
  fun h => by
    have hf := formatCode_lt (f := fmt) h
    refine legal_of_word (op := 0x01) (first := 1) (u := geomUnused) ?_ (commandOfNats_zero ..) (by decide)
      (by decide) ?_ ?_ (wordsZeroFrom_of (fun i => commandOfNats_get ..) (by simp)) ?_
    · omega
    · omega
    · simp [geomUnused]; omega
    · omega

theorem LegalWords.desc (fmt : PixelFormat) (vm : Bool) (r : RasterSize) : LegalWords.Statement (.desc fmt vm r) :=
  fun h => by
    have hf := formatCode_lt ((Bool.and_eq_true _ _).mp h).1
    have hv : vm.toNat < 2 := Bool.toNat_lt _
    refine legal_of_word (op := 0x02) (first := 4) (u := descUnused) ?_ (commandOfNats_zero ..) (by decide)
      (by decide) ?_ ?_ (wordsZeroFrom_of (fun i => commandOfNats_get ..) (by simp)) ?_
    · unfold atBit; omega
    · unfold atBit; omega
    · simp [descUnused, atBit]; omega
    · omega

theorem LegalWords.unpackY10P (a : LineArgs) : LegalWords.Statement (.unpackY10P a) :=
  legal_encodeLine (op := 0x10) (code := 0) (.inl rfl) (by omega)

theorem LegalWords.unpackY10P_BE (a : LineArgs) : LegalWords.Statement (.unpackY10P_BE a) :=
  legal_encodeLine (op := 0x10) (code := 1) (.inl rfl) (by omega)

theorem LegalWords.unpackY8P (a : LineArgs) : LegalWords.Statement (.unpackY8P a) :=
  legal_encodeLine (op := 0x10) (code := 2) (.inl rfl) (by omega)

theorem LegalWords.unpackRGB24 (a : LineArgs) : LegalWords.Statement (.unpackRGB24 a) :=
  legal_encodeLine (op := 0x10) (code := 3) (.inl rfl) (by omega)

theorem LegalWords.unpackRGBA32 (a : LineArgs) : LegalWords.Statement (.unpackRGBA32 a) :=
  legal_encodeLine (op := 0x10) (code := 4) (.inl rfl) (by omega)

theorem LegalWords.unpackRGB48 (a : LineArgs) : LegalWords.Statement (.unpackRGB48 a) :=
  legal_encodeLine (op := 0x10) (code := 5) (.inl rfl) (by omega)

theorem LegalWords.unpackRGB10P (a : LineArgs) : LegalWords.Statement (.unpackRGB10P a) :=
  legal_encodeLine (op := 0x10) (code := 6) (.inl rfl) (by omega)

theorem LegalWords.unpackRGB10P_BE (a : LineArgs) : LegalWords.Statement (.unpackRGB10P_BE a) :=
  legal_encodeLine (op := 0x10) (code := 7) (.inl rfl) (by omega)

theorem LegalWords.unpackRGB12P (a : LineArgs) : LegalWords.Statement (.unpackRGB12P a) :=
  legal_encodeLine (op := 0x10) (code := 8) (.inl rfl) (by omega)

theorem LegalWords.unpackY10_420_PL2 (a : LineArgs) : LegalWords.Statement (.unpackY10_420_PL2 a) :=
  legal_encodeLine (op := 0x10) (code := 9) (.inl rfl) (by omega)

theorem LegalWords.unpackY8_422_PL3 (a : LineArgs) : LegalWords.Statement (.unpackY8_422_PL3 a) :=
  legal_encodeLine (op := 0x10) (code := 10) (.inl rfl) (by omega)

theorem LegalWords.unpackY8_420_PL3 (a : LineArgs) : LegalWords.Statement (.unpackY8_420_PL3 a) :=
  legal_encodeLine (op := 0x10) (code := 11) (.inl rfl) (by omega)

theorem LegalWords.unpackCOMPRESSED (a : LineArgs) : LegalWords.Statement (.unpackCOMPRESSED a) :=
  legal_encodeLine (op := 0x10) (code := 12) (.inl rfl) (by omega)

theorem LegalWords.unpack13 (a : LineArgs) : LegalWords.Statement (.unpack13 a) :=
  legal_encodeLine (op := 0x10) (code := 13) (.inl rfl) (by omega)

theorem LegalWords.unpack14 (a : LineArgs) : LegalWords.Statement (.unpack14 a) :=
  legal_encodeLine (op := 0x10) (code := 14) (.inl rfl) (by omega)

theorem LegalWords.unpack15 (a : LineArgs) : LegalWords.Statement (.unpack15 a) :=
  legal_encodeLine (op := 0x10) (code := 15) (.inl rfl) (by omega)

theorem LegalWords.unpack16 (a : LineArgs) : LegalWords.Statement (.unpack16 a) :=
  legal_encodeLine (op := 0x10) (code := 16) (.inl rfl) (by omega)

theorem LegalWords.unpack17 (a : LineArgs) : LegalWords.Statement (.unpack17 a) :=
  legal_encodeLine (op := 0x10) (code := 17) (.inl rfl) (by omega)

theorem LegalWords.unpack18 (a : LineArgs) : LegalWords.Statement (.unpack18 a) :=
  legal_encodeLine (op := 0x10) (code := 18) (.inl rfl) (by omega)

theorem LegalWords.unpack19 (a : LineArgs) : LegalWords.Statement (.unpack19 a) :=
  legal_encodeLine (op := 0x10) (code := 19) (.inl rfl) (by omega)

theorem LegalWords.unpack20 (a : LineArgs) : LegalWords.Statement (.unpack20 a) :=
  legal_encodeLine (op := 0x10) (code := 20) (.inl rfl) (by omega)

theorem LegalWords.unpack21 (a : LineArgs) : LegalWords.Statement (.unpack21 a) :=
  legal_encodeLine (op := 0x10) (code := 21) (.inl rfl) (by omega)

theorem LegalWords.unpack22 (a : LineArgs) : LegalWords.Statement (.unpack22 a) :=
  legal_encodeLine (op := 0x10) (code := 22) (.inl rfl) (by omega)

theorem LegalWords.unpack23 (a : LineArgs) : LegalWords.Statement (.unpack23 a) :=
  legal_encodeLine (op := 0x10) (code := 23) (.inl rfl) (by omega)

theorem LegalWords.unpack24 (a : LineArgs) : LegalWords.Statement (.unpack24 a) :=
  legal_encodeLine (op := 0x10) (code := 24) (.inl rfl) (by omega)

theorem LegalWords.unpack25 (a : LineArgs) : LegalWords.Statement (.unpack25 a) :=
  legal_encodeLine (op := 0x10) (code := 25) (.inl rfl) (by omega)

theorem LegalWords.unpack26 (a : LineArgs) : LegalWords.Statement (.unpack26 a) :=
  legal_encodeLine (op := 0x10) (code := 26) (.inl rfl) (by omega)

theorem LegalWords.unpack27 (a : LineArgs) : LegalWords.Statement (.unpack27 a) :=
  legal_encodeLine (op := 0x10) (code := 27) (.inl rfl) (by omega)

theorem LegalWords.unpack28 (a : LineArgs) : LegalWords.Statement (.unpack28 a) :=
  legal_encodeLine (op := 0x10) (code := 28) (.inl rfl) (by omega)

theorem LegalWords.unpack29 (a : LineArgs) : LegalWords.Statement (.unpack29 a) :=
  legal_encodeLine (op := 0x10) (code := 29) (.inl rfl) (by omega)

theorem LegalWords.unpack30 (a : LineArgs) : LegalWords.Statement (.unpack30 a) :=
  legal_encodeLine (op := 0x10) (code := 30) (.inl rfl) (by omega)

theorem LegalWords.unpack31 (a : LineArgs) : LegalWords.Statement (.unpack31 a) :=
  legal_encodeLine (op := 0x10) (code := 31) (.inl rfl) (by omega)

theorem LegalWords.unpack32 (a : LineArgs) : LegalWords.Statement (.unpack32 a) :=
  legal_encodeLine (op := 0x10) (code := 32) (.inl rfl) (by omega)

theorem LegalWords.unpack33 (a : LineArgs) : LegalWords.Statement (.unpack33 a) :=
  legal_encodeLine (op := 0x10) (code := 33) (.inl rfl) (by omega)

theorem LegalWords.unpack34 (a : LineArgs) : LegalWords.Statement (.unpack34 a) :=
  legal_encodeLine (op := 0x10) (code := 34) (.inl rfl) (by omega)

theorem LegalWords.unpack35 (a : LineArgs) : LegalWords.Statement (.unpack35 a) :=
  legal_encodeLine (op := 0x10) (code := 35) (.inl rfl) (by omega)

theorem LegalWords.unpack36 (a : LineArgs) : LegalWords.Statement (.unpack36 a) :=
  legal_encodeLine (op := 0x10) (code := 36) (.inl rfl) (by omega)

theorem LegalWords.unpack37 (a : LineArgs) : LegalWords.Statement (.unpack37 a) :=
  legal_encodeLine (op := 0x10) (code := 37) (.inl rfl) (by omega)

theorem LegalWords.unpack38 (a : LineArgs) : LegalWords.Statement (.unpack38 a) :=
  legal_encodeLine (op := 0x10) (code := 38) (.inl rfl) (by omega)

theorem LegalWords.unpack39 (a : LineArgs) : LegalWords.Statement (.unpack39 a) :=
  legal_encodeLine (op := 0x10) (code := 39) (.inl rfl) (by omega)

theorem LegalWords.unpack40 (a : LineArgs) : LegalWords.Statement (.unpack40 a) :=
  legal_encodeLine (op := 0x10) (code := 40) (.inl rfl) (by omega)

theorem LegalWords.unpack41 (a : LineArgs) : LegalWords.Statement (.unpack41 a) :=
  legal_encodeLine (op := 0x10) (code := 41) (.inl rfl) (by omega)

theorem LegalWords.unpack42 (a : LineArgs) : LegalWords.Statement (.unpack42 a) :=
  legal_encodeLine (op := 0x10) (code := 42) (.inl rfl) (by omega)

theorem LegalWords.unpack43 (a : LineArgs) : LegalWords.Statement (.unpack43 a) :=
  legal_encodeLine (op := 0x10) (code := 43) (.inl rfl) (by omega)

theorem LegalWords.unpack44 (a : LineArgs) : LegalWords.Statement (.unpack44 a) :=
  legal_encodeLine (op := 0x10) (code := 44) (.inl rfl) (by omega)

theorem LegalWords.unpack45 (a : LineArgs) : LegalWords.Statement (.unpack45 a) :=
  legal_encodeLine (op := 0x10) (code := 45) (.inl rfl) (by omega)

theorem LegalWords.unpack46 (a : LineArgs) : LegalWords.Statement (.unpack46 a) :=
  legal_encodeLine (op := 0x10) (code := 46) (.inl rfl) (by omega)

theorem LegalWords.unpack47 (a : LineArgs) : LegalWords.Statement (.unpack47 a) :=
  legal_encodeLine (op := 0x10) (code := 47) (.inl rfl) (by omega)

theorem LegalWords.unpack48 (a : LineArgs) : LegalWords.Statement (.unpack48 a) :=
  legal_encodeLine (op := 0x10) (code := 48) (.inl rfl) (by omega)

theorem LegalWords.unpack49 (a : LineArgs) : LegalWords.Statement (.unpack49 a) :=
  legal_encodeLine (op := 0x10) (code := 49) (.inl rfl) (by omega)

theorem LegalWords.unpack50 (a : LineArgs) : LegalWords.Statement (.unpack50 a) :=
  legal_encodeLine (op := 0x10) (code := 50) (.inl rfl) (by omega)

theorem LegalWords.unpack51 (a : LineArgs) : LegalWords.Statement (.unpack51 a) :=
  legal_encodeLine (op := 0x10) (code := 51) (.inl rfl) (by omega)

theorem LegalWords.unpack52 (a : LineArgs) : LegalWords.Statement (.unpack52 a) :=
  legal_encodeLine (op := 0x10) (code := 52) (.inl rfl) (by omega)

theorem LegalWords.unpack53 (a : LineArgs) : LegalWords.Statement (.unpack53 a) :=
  legal_encodeLine (op := 0x10) (code := 53) (.inl rfl) (by omega)

theorem LegalWords.unpack54 (a : LineArgs) : LegalWords.Statement (.unpack54 a) :=
  legal_encodeLine (op := 0x10) (code := 54) (.inl rfl) (by omega)

theorem LegalWords.unpack55 (a : LineArgs) : LegalWords.Statement (.unpack55 a) :=
  legal_encodeLine (op := 0x10) (code := 55) (.inl rfl) (by omega)

theorem LegalWords.unpack56 (a : LineArgs) : LegalWords.Statement (.unpack56 a) :=
  legal_encodeLine (op := 0x10) (code := 56) (.inl rfl) (by omega)

theorem LegalWords.unpack57 (a : LineArgs) : LegalWords.Statement (.unpack57 a) :=
  legal_encodeLine (op := 0x10) (code := 57) (.inl rfl) (by omega)

theorem LegalWords.unpack58 (a : LineArgs) : LegalWords.Statement (.unpack58 a) :=
  legal_encodeLine (op := 0x10) (code := 58) (.inl rfl) (by omega)

theorem LegalWords.unpack59 (a : LineArgs) : LegalWords.Statement (.unpack59 a) :=
  legal_encodeLine (op := 0x10) (code := 59) (.inl rfl) (by omega)

theorem LegalWords.unpack60 (a : LineArgs) : LegalWords.Statement (.unpack60 a) :=
  legal_encodeLine (op := 0x10) (code := 60) (.inl rfl) (by omega)

theorem LegalWords.unpack61 (a : LineArgs) : LegalWords.Statement (.unpack61 a) :=
  legal_encodeLine (op := 0x10) (code := 61) (.inl rfl) (by omega)

theorem LegalWords.unpack62 (a : LineArgs) : LegalWords.Statement (.unpack62 a) :=
  legal_encodeLine (op := 0x10) (code := 62) (.inl rfl) (by omega)

theorem LegalWords.unpack63 (a : LineArgs) : LegalWords.Statement (.unpack63 a) :=
  legal_encodeLine (op := 0x10) (code := 63) (.inl rfl) (by omega)

theorem LegalWords.packY10P (a : LineArgs) : LegalWords.Statement (.packY10P a) :=
  legal_encodeLine (op := 0x11) (code := 0) (.inr rfl) (by omega)

theorem LegalWords.packY10P_BE (a : LineArgs) : LegalWords.Statement (.packY10P_BE a) :=
  legal_encodeLine (op := 0x11) (code := 1) (.inr rfl) (by omega)

theorem LegalWords.packY8P (a : LineArgs) : LegalWords.Statement (.packY8P a) :=
  legal_encodeLine (op := 0x11) (code := 2) (.inr rfl) (by omega)

theorem LegalWords.packRGB24 (a : LineArgs) : LegalWords.Statement (.packRGB24 a) :=
  legal_encodeLine (op := 0x11) (code := 3) (.inr rfl) (by omega)

theorem LegalWords.packRGBA32 (a : LineArgs) : LegalWords.Statement (.packRGBA32 a) :=
  legal_encodeLine (op := 0x11) (code := 4) (.inr rfl) (by omega)

theorem LegalWords.packRGB48 (a : LineArgs) : LegalWords.Statement (.packRGB48 a) :=
  legal_encodeLine (op := 0x11) (code := 5) (.inr rfl) (by omega)

theorem LegalWords.packRGB10P (a : LineArgs) : LegalWords.Statement (.packRGB10P a) :=
  legal_encodeLine (op := 0x11) (code := 6) (.inr rfl) (by omega)

theorem LegalWords.packRGB10P_BE (a : LineArgs) : LegalWords.Statement (.packRGB10P_BE a) :=
  legal_encodeLine (op := 0x11) (code := 7) (.inr rfl) (by omega)

theorem LegalWords.packRGB12P (a : LineArgs) : LegalWords.Statement (.packRGB12P a) :=
  legal_encodeLine (op := 0x11) (code := 8) (.inr rfl) (by omega)

theorem LegalWords.packY10_420_PL2 (a : LineArgs) : LegalWords.Statement (.packY10_420_PL2 a) :=
  legal_encodeLine (op := 0x11) (code := 9) (.inr rfl) (by omega)

theorem LegalWords.packY8_422_PL3 (a : LineArgs) : LegalWords.Statement (.packY8_422_PL3 a) :=
  legal_encodeLine (op := 0x11) (code := 10) (.inr rfl) (by omega)

theorem LegalWords.packY8_420_PL3 (a : LineArgs) : LegalWords.Statement (.packY8_420_PL3 a) :=
  legal_encodeLine (op := 0x11) (code := 11) (.inr rfl) (by omega)

theorem LegalWords.packCOMPRESSED (a : LineArgs) : LegalWords.Statement (.packCOMPRESSED a) :=
  legal_encodeLine (op := 0x11) (code := 12) (.inr rfl) (by omega)

theorem LegalWords.pack13 (a : LineArgs) : LegalWords.Statement (.pack13 a) :=
  legal_encodeLine (op := 0x11) (code := 13) (.inr rfl) (by omega)

theorem LegalWords.pack14 (a : LineArgs) : LegalWords.Statement (.pack14 a) :=
  legal_encodeLine (op := 0x11) (code := 14) (.inr rfl) (by omega)

theorem LegalWords.pack15 (a : LineArgs) : LegalWords.Statement (.pack15 a) :=
  legal_encodeLine (op := 0x11) (code := 15) (.inr rfl) (by omega)

theorem LegalWords.pack16 (a : LineArgs) : LegalWords.Statement (.pack16 a) :=
  legal_encodeLine (op := 0x11) (code := 16) (.inr rfl) (by omega)

theorem LegalWords.pack17 (a : LineArgs) : LegalWords.Statement (.pack17 a) :=
  legal_encodeLine (op := 0x11) (code := 17) (.inr rfl) (by omega)

theorem LegalWords.pack18 (a : LineArgs) : LegalWords.Statement (.pack18 a) :=
  legal_encodeLine (op := 0x11) (code := 18) (.inr rfl) (by omega)

theorem LegalWords.pack19 (a : LineArgs) : LegalWords.Statement (.pack19 a) :=
  legal_encodeLine (op := 0x11) (code := 19) (.inr rfl) (by omega)

theorem LegalWords.pack20 (a : LineArgs) : LegalWords.Statement (.pack20 a) :=
  legal_encodeLine (op := 0x11) (code := 20) (.inr rfl) (by omega)

theorem LegalWords.pack21 (a : LineArgs) : LegalWords.Statement (.pack21 a) :=
  legal_encodeLine (op := 0x11) (code := 21) (.inr rfl) (by omega)

theorem LegalWords.pack22 (a : LineArgs) : LegalWords.Statement (.pack22 a) :=
  legal_encodeLine (op := 0x11) (code := 22) (.inr rfl) (by omega)

theorem LegalWords.pack23 (a : LineArgs) : LegalWords.Statement (.pack23 a) :=
  legal_encodeLine (op := 0x11) (code := 23) (.inr rfl) (by omega)

theorem LegalWords.pack24 (a : LineArgs) : LegalWords.Statement (.pack24 a) :=
  legal_encodeLine (op := 0x11) (code := 24) (.inr rfl) (by omega)

theorem LegalWords.pack25 (a : LineArgs) : LegalWords.Statement (.pack25 a) :=
  legal_encodeLine (op := 0x11) (code := 25) (.inr rfl) (by omega)

theorem LegalWords.pack26 (a : LineArgs) : LegalWords.Statement (.pack26 a) :=
  legal_encodeLine (op := 0x11) (code := 26) (.inr rfl) (by omega)

theorem LegalWords.pack27 (a : LineArgs) : LegalWords.Statement (.pack27 a) :=
  legal_encodeLine (op := 0x11) (code := 27) (.inr rfl) (by omega)

theorem LegalWords.pack28 (a : LineArgs) : LegalWords.Statement (.pack28 a) :=
  legal_encodeLine (op := 0x11) (code := 28) (.inr rfl) (by omega)

theorem LegalWords.pack29 (a : LineArgs) : LegalWords.Statement (.pack29 a) :=
  legal_encodeLine (op := 0x11) (code := 29) (.inr rfl) (by omega)

theorem LegalWords.pack30 (a : LineArgs) : LegalWords.Statement (.pack30 a) :=
  legal_encodeLine (op := 0x11) (code := 30) (.inr rfl) (by omega)

theorem LegalWords.pack31 (a : LineArgs) : LegalWords.Statement (.pack31 a) :=
  legal_encodeLine (op := 0x11) (code := 31) (.inr rfl) (by omega)

theorem LegalWords.pack32 (a : LineArgs) : LegalWords.Statement (.pack32 a) :=
  legal_encodeLine (op := 0x11) (code := 32) (.inr rfl) (by omega)

theorem LegalWords.pack33 (a : LineArgs) : LegalWords.Statement (.pack33 a) :=
  legal_encodeLine (op := 0x11) (code := 33) (.inr rfl) (by omega)

theorem LegalWords.pack34 (a : LineArgs) : LegalWords.Statement (.pack34 a) :=
  legal_encodeLine (op := 0x11) (code := 34) (.inr rfl) (by omega)

theorem LegalWords.pack35 (a : LineArgs) : LegalWords.Statement (.pack35 a) :=
  legal_encodeLine (op := 0x11) (code := 35) (.inr rfl) (by omega)

theorem LegalWords.pack36 (a : LineArgs) : LegalWords.Statement (.pack36 a) :=
  legal_encodeLine (op := 0x11) (code := 36) (.inr rfl) (by omega)

theorem LegalWords.pack37 (a : LineArgs) : LegalWords.Statement (.pack37 a) :=
  legal_encodeLine (op := 0x11) (code := 37) (.inr rfl) (by omega)

theorem LegalWords.pack38 (a : LineArgs) : LegalWords.Statement (.pack38 a) :=
  legal_encodeLine (op := 0x11) (code := 38) (.inr rfl) (by omega)

theorem LegalWords.pack39 (a : LineArgs) : LegalWords.Statement (.pack39 a) :=
  legal_encodeLine (op := 0x11) (code := 39) (.inr rfl) (by omega)

theorem LegalWords.pack40 (a : LineArgs) : LegalWords.Statement (.pack40 a) :=
  legal_encodeLine (op := 0x11) (code := 40) (.inr rfl) (by omega)

theorem LegalWords.pack41 (a : LineArgs) : LegalWords.Statement (.pack41 a) :=
  legal_encodeLine (op := 0x11) (code := 41) (.inr rfl) (by omega)

theorem LegalWords.pack42 (a : LineArgs) : LegalWords.Statement (.pack42 a) :=
  legal_encodeLine (op := 0x11) (code := 42) (.inr rfl) (by omega)

theorem LegalWords.pack43 (a : LineArgs) : LegalWords.Statement (.pack43 a) :=
  legal_encodeLine (op := 0x11) (code := 43) (.inr rfl) (by omega)

theorem LegalWords.pack44 (a : LineArgs) : LegalWords.Statement (.pack44 a) :=
  legal_encodeLine (op := 0x11) (code := 44) (.inr rfl) (by omega)

theorem LegalWords.pack45 (a : LineArgs) : LegalWords.Statement (.pack45 a) :=
  legal_encodeLine (op := 0x11) (code := 45) (.inr rfl) (by omega)

theorem LegalWords.pack46 (a : LineArgs) : LegalWords.Statement (.pack46 a) :=
  legal_encodeLine (op := 0x11) (code := 46) (.inr rfl) (by omega)

theorem LegalWords.pack47 (a : LineArgs) : LegalWords.Statement (.pack47 a) :=
  legal_encodeLine (op := 0x11) (code := 47) (.inr rfl) (by omega)

theorem LegalWords.pack48 (a : LineArgs) : LegalWords.Statement (.pack48 a) :=
  legal_encodeLine (op := 0x11) (code := 48) (.inr rfl) (by omega)

theorem LegalWords.pack49 (a : LineArgs) : LegalWords.Statement (.pack49 a) :=
  legal_encodeLine (op := 0x11) (code := 49) (.inr rfl) (by omega)

theorem LegalWords.pack50 (a : LineArgs) : LegalWords.Statement (.pack50 a) :=
  legal_encodeLine (op := 0x11) (code := 50) (.inr rfl) (by omega)

theorem LegalWords.pack51 (a : LineArgs) : LegalWords.Statement (.pack51 a) :=
  legal_encodeLine (op := 0x11) (code := 51) (.inr rfl) (by omega)

theorem LegalWords.pack52 (a : LineArgs) : LegalWords.Statement (.pack52 a) :=
  legal_encodeLine (op := 0x11) (code := 52) (.inr rfl) (by omega)

theorem LegalWords.pack53 (a : LineArgs) : LegalWords.Statement (.pack53 a) :=
  legal_encodeLine (op := 0x11) (code := 53) (.inr rfl) (by omega)

theorem LegalWords.pack54 (a : LineArgs) : LegalWords.Statement (.pack54 a) :=
  legal_encodeLine (op := 0x11) (code := 54) (.inr rfl) (by omega)

theorem LegalWords.pack55 (a : LineArgs) : LegalWords.Statement (.pack55 a) :=
  legal_encodeLine (op := 0x11) (code := 55) (.inr rfl) (by omega)

theorem LegalWords.pack56 (a : LineArgs) : LegalWords.Statement (.pack56 a) :=
  legal_encodeLine (op := 0x11) (code := 56) (.inr rfl) (by omega)

theorem LegalWords.pack57 (a : LineArgs) : LegalWords.Statement (.pack57 a) :=
  legal_encodeLine (op := 0x11) (code := 57) (.inr rfl) (by omega)

theorem LegalWords.pack58 (a : LineArgs) : LegalWords.Statement (.pack58 a) :=
  legal_encodeLine (op := 0x11) (code := 58) (.inr rfl) (by omega)

theorem LegalWords.pack59 (a : LineArgs) : LegalWords.Statement (.pack59 a) :=
  legal_encodeLine (op := 0x11) (code := 59) (.inr rfl) (by omega)

theorem LegalWords.pack60 (a : LineArgs) : LegalWords.Statement (.pack60 a) :=
  legal_encodeLine (op := 0x11) (code := 60) (.inr rfl) (by omega)

theorem LegalWords.pack61 (a : LineArgs) : LegalWords.Statement (.pack61 a) :=
  legal_encodeLine (op := 0x11) (code := 61) (.inr rfl) (by omega)

theorem LegalWords.pack62 (a : LineArgs) : LegalWords.Statement (.pack62 a) :=
  legal_encodeLine (op := 0x11) (code := 62) (.inr rfl) (by omega)

theorem LegalWords.pack63 (a : LineArgs) : LegalWords.Statement (.pack63 a) :=
  legal_encodeLine (op := 0x11) (code := 63) (.inr rfl) (by omega)

theorem LegalWords.cscY2R (sd sr al a4 : Bool) (dep : Depth) (b : LinePair) : LegalWords.Statement (.cscY2R sd sr al a4 dep b) :=
  fun _ => by
    have h1 : sd.toNat < 2 := Bool.toNat_lt _
    have h2 : sr.toNat < 2 := Bool.toNat_lt _
    have h3 : al.toNat < 2 := Bool.toNat_lt _
    have h4 : a4.toNat < 2 := Bool.toNat_lt _
    have hd := depthCode_lt dep
    refine legal_of_word (op := 0x20) (first := 6) (u := y2rUnused) ?_ (commandOfNats_zero ..) (by decide)
      (by decide) ?_ ?_ (wordsZeroFrom_of (fun i => commandOfNats_get ..) (by simp)) ?_
    · unfold atBit; omega
    · unfold atBit; omega
    · simp [y2rUnused, atBit]; omega
    · unfold atBit; omega

theorem LegalWords.cscR2Y (sd sr a4 : Bool) (dep : Depth) (b : LinePair) : LegalWords.Statement (.cscR2Y sd sr a4 dep b) :=
  fun _ => by
    have h1 : sd.toNat < 2 := Bool.toNat_lt _
    have h2 : sr.toNat < 2 := Bool.toNat_lt _
    have h4 : a4.toNat < 2 := Bool.toNat_lt _
    have hd := depthCode_lt dep
    refine legal_of_word (op := 0x21) (first := 6) (u := r2yUnused) ?_ (commandOfNats_zero ..) (by decide)
      (by decide) ?_ ?_ (wordsZeroFrom_of (fun i => commandOfNats_get ..) (by simp)) ?_
    · unfold atBit; omega
    · unfold atBit; omega
    · simp [r2yUnused, atBit]; omega
    · unfold atBit; omega

theorem LegalWords.cscRDepth (a4 : Bool) (dep dep2 : Depth) (b : LinePair) : LegalWords.Statement (.cscRDepth a4 dep dep2 b) :=
  fun _ => by
    have h4 : a4.toNat < 2 := Bool.toNat_lt _
    have hd := depthCode_lt dep
    have hd2 := depthCode_lt dep2
    refine legal_of_word (op := 0x22) (first := 6) (u := rdepthUnused) ?_ (commandOfNats_zero ..) (by decide)
      (by decide) ?_ ?_ (wordsZeroFrom_of (fun i => commandOfNats_get ..) (by simp)) ?_
    · unfold atBit; omega
    · unfold atBit; omega
    · simp [rdepthUnused, atBit]; omega
    · unfold atBit; omega

theorem LegalWords.view (fmt : PixelFormat) (vm : Bool) (v : ViewArgs) : LegalWords.Statement (.view fmt vm v) :=
  fun h => by
    have hf := formatCode_lt ((Bool.and_eq_true _ _).mp h).1
    have hv : vm.toNat < 2 := Bool.toNat_lt _
    refine legal_of_word (op := 0x30) (first := 8) (u := viewUnused) ?_ (commandOfNats_zero ..) (by decide)
      (by decide) ?_ ?_ (wordsZeroFrom_of (fun i => commandOfNats_get ..) (by simp)) ?_
    · unfold atBit; omega
    · unfold atBit; omega
    · simp [viewUnused, atBit]; omega
    · omega

theorem LegalWords.cmpv (fmt : PixelFormat) (vm : Bool) (v : ViewArgs) : LegalWords.Statement (.cmpv fmt vm v) :=
  fun h => by
    have hf := formatCode_lt ((Bool.and_eq_true _ _).mp h).1
    have hv : vm.toNat < 2 := Bool.toNat_lt _
    refine legal_of_word (op := 0x31) (first := 8) (u := viewUnused) ?_ (commandOfNats_zero ..) (by decide)
      (by decide) ?_ ?_ (wordsZeroFrom_of (fun i => commandOfNats_get ..) (by simp)) ?_
    · unfold atBit; omega
    · unfold atBit; omega
    · simp [viewUnused, atBit]; omega
    · omega

theorem LegalWords.blit (fmt : PixelFormat) (b : BlitArgs) : LegalWords.Statement (.blit fmt b) :=
  fun h => by
    have hf := formatCode_lt ((Bool.and_eq_true _ _).mp h).1
    refine legal_of_word (op := 0x40) (first := 13) (u := blitUnused) ?_ (commandOfNats_zero ..) (by decide)
      (by decide) ?_ ?_ (wordsZeroFrom_of (fun i => commandOfNats_get ..) (by simp)) ?_
    · omega
    · omega
    · simp [blitUnused]; omega
    · omega

theorem LegalWords.qsplit (q : Quadrant) (a : QuadArgs) : LegalWords.Statement (.qsplit q a) :=
  fun _ => by
    have hq := quadrantCode_lt q
    refine legal_of_word (op := 0x41) (first := 6) (u := quadUnused) ?_ (commandOfNats_zero ..) (by decide)
      (by decide) ?_ ?_ (wordsZeroFrom_of (fun i => commandOfNats_get ..) (by simp)) ?_
    · omega
    · omega
    · simp [quadUnused]; omega
    · omega

theorem LegalWords.qmerge (q : Quadrant) (a : QuadArgs) : LegalWords.Statement (.qmerge q a) :=
  fun _ => by
    have hq := quadrantCode_lt q
    refine legal_of_word (op := 0x42) (first := 6) (u := quadUnused) ?_ (commandOfNats_zero ..) (by decide)
      (by decide) ?_ ?_ (wordsZeroFrom_of (fun i => commandOfNats_get ..) (by simp)) ?_
    · omega
    · omega
    · simp [quadUnused]; omega
    · omega

end Sys2Proof.Laws
end

