-- ==== Sys2Proof/Laws/Raster.lean ====
section
/-! SUPPORT. The raster transforms' laws: when their checks fail and pass, and what a copy of rows leaves. -/

namespace Sys2Proof.Machine

/-! ## A copy of rows -/

/-- The rows of a copy, as the runs an operation stores. -/
abbrev copiedRows (n count : Nat) (start source : Nat → Nat) (m : Memory) : List Run :=
  (List.range count).map fun r => (start r, memBytes m (source r) n)

/-- What a copy of rows that lie at a pitch no shorter than a row leaves: each row is the source's row as it was, and
nothing else changes. -/
theorem rows_complete {s : State} (hm : Rising s.mem) (status : Word) (res : Vector Word 12) {n count base pitch : Nat}
    {start source : Nat → Nat} (hp : ∀ r, start r = base + r * pitch) (hn : n ≤ pitch) {stored : Nat → Prop}
    (hs : ∀ r < count, ∀ j < n, stored (start r + j)) :
    let t := succeed status res (copiedRows n count start source s.mem) 0 s
    Ended s t status res stored ∧ t.drawn = s.drawn ∧
      ∀ r < count, ∀ j < n, memByte t.mem (start r + j) = memByte s.mem (source r + j) := by
  refine ⟨succeed_ended_runs hm _ _ _ _ fun x hx q hq => ?_, rfl, fun r hr j hj => ?_⟩
  · obtain ⟨r, hr, rfl⟩ := List.mem_map.1 hq
    rw [memBytes_length]
    by_contra hin
    refine hx ?_
    have := hs r (List.mem_range.1 hr) (x - start r) (by dsimp only at hin; omega)
    rwa [Nat.add_sub_cancel' (by dsimp only at hin; omega)] at this
  · have hmem : (start r, memBytes s.mem (source r) n) ∈ copiedRows n count start source s.mem :=
      List.mem_map.2 ⟨r, List.mem_range.2 hr, rfl⟩
    have hpair : (copiedRows n count start source s.mem).Pairwise
        fun p q => p.1 + p.2.length ≤ q.1 ∨ q.1 + q.2.length ≤ p.1 :=
      rows_pairwise fun r => ⟨by rw [memBytes_length]; exact hn, hp r⟩
    have hj' : j < (memBytes s.mem (source r) n).length := by rw [memBytes_length]; exact hj
    refine (memByte_storeRuns_inside hm hpair hmem hj').trans ?_
    exact Option.some.inj ((List.getElem?_eq_getElem hj').symm.trans (memBytes_getElem? hj))

/-! ## Checks -/

theorem blitFailure_eq (gP : Nat) (b : BlitArgs) :
    blitFailure gP b =
      if ¬ (b.srcAddr ≠ b.dstAddr ∧ (b.srcPitch ≠ 0 ∧ b.dstPitch ≠ 0 ∧ b.srcHeight ≠ 0 ∧ b.dstHeight ≠ 0) ∧
        b.srcX % gP = 0 ∧ b.rectW % gP = 0 ∧ b.dstX % gP = 0) then some .badGeometry
      else if ¬ (b.srcAddr + b.srcPitch * b.srcHeight ≤ 2 ^ 32 ∧ b.dstAddr + b.dstPitch * b.dstHeight ≤ 2 ^ 32) then
        some .badBufferSize
      else none := by
  unfold blitFailure
  by_cases h1 : b.srcAddr = b.dstAddr
  · rw [if_pos h1, if_pos (fun h => h.1 h1)]
  · rw [if_neg h1]
    by_cases h2 : b.srcPitch = 0 ∨ b.dstPitch = 0 ∨ b.srcHeight = 0 ∨ b.dstHeight = 0
    · rw [if_pos h2, if_pos (by omega)]
    · rw [if_neg h2]
      by_cases h3 : b.srcX % gP ≠ 0 ∨ b.rectW % gP ≠ 0 ∨ b.dstX % gP ≠ 0
      · rw [if_pos h3, if_pos (by omega)]
      · rw [if_neg h3]
        exact (if_neg (not_not.2 ⟨h1, by omega, by omega⟩)).symm

theorem quadFailure_eq (a : QuadArgs) :
    quadFailure a =
      if a.fullAddr = 0 ∨ a.quadAddr = 0 then some .nullBuffer
      else if ¬ (a.fullAddr ≠ a.quadAddr ∧ (a.fullPitch ≠ 0 ∧ a.fullHeight ≠ 0) ∧
        (a.fullPitch % 2 = 0 ∧ a.fullHeight % 2 = 0) ∧ a.quad13Offset ≤ a.fullPitch / 2) then some .badGeometry
      else if ¬ (a.fullAddr + a.fullPitch * a.fullHeight ≤ 2 ^ 32 ∧ a.quadAddr + quadPitch a * quadHeight a ≤ 2 ^ 32) then
        some .badBufferSize
      else none := by
  unfold quadFailure
  refine if_congr Iff.rfl rfl ?_
  by_cases h1 : a.fullAddr = a.quadAddr
  · rw [if_pos h1, if_pos (fun h => h.1 h1)]
  · rw [if_neg h1]
    by_cases h2 : a.fullPitch = 0 ∨ a.fullHeight = 0
    · rw [if_pos h2, if_pos (by omega)]
    · rw [if_neg h2]
      by_cases h3 : a.fullPitch % 2 ≠ 0 ∨ a.fullHeight % 2 ≠ 0
      · rw [if_pos h3, if_pos (by omega)]
      · rw [if_neg h3]
        by_cases h4 : quadPitch a < a.quad13Offset
        · rw [if_pos h4, if_pos (by unfold quadPitch at h4; omega)]
        · rw [if_neg h4]
          exact (if_neg (not_not.2 ⟨h1, by omega, by omega, by unfold quadPitch at h4; omega⟩)).symm

theorem quadFailure_of_passes {a : QuadArgs} (h : QuadPasses a) : quadFailure a = none := by
  rw [quadFailure_eq, if_neg (by rintro (e | e); exacts [h.notNull.1 e, h.notNull.2 e]),
    if_neg (not_not.2 ⟨h.notSame, h.notEmpty, h.even, h.offset⟩)]
  exact if_neg (not_not.2 h.fits)

/-! ## The operations -/

/-- What `QSPLIT` leaves where it is ready. -/
theorem qsplit_completes {q : Quadrant} {a : QuadArgs} {s : State} (hm : Rising s.mem)
    (h : QuadReady a s (fullRange a) (quadRange a)) :
    ∃ t, complete (effectQsplit q a s) s = .next t ∧ Ended s t 0x001 (.replicate 12 0) (inRange (quadRange a)) ∧
      t.drawn = s.drawn ∧ ∀ r < quadHeight a, ∀ j < quadPitch a,
        memByte t.mem (quadRowInImage a r + j) = memByte s.mem (quadRowInFull q a r + j) := by
  have hs : ∀ r < quadHeight a, ∀ j < quadPitch a, inRange (quadRange a) (quadRowInImage a r + j) := fun r hr j hj => by
    have := quadRow_in_image a hr
    simp only [inRange, quadRange, quadRowInImage]
    omega
  refine ⟨_, ?_, rows_complete hm 0x001 (.replicate 12 0) (source := quadRowInFull q a) (base := a.quadAddr)
    (pitch := quadPitch a) (fun _ => rfl) (Nat.le_refl _) hs⟩
  rw [effectQsplit, quadFailure_of_passes h.passes, ← statusDone_eq]
  exact congrArg (fun e => complete e s) (guarded_pass h.apart _)

/-- What `QMERGE` leaves where it is ready. -/
theorem qmerge_completes {q : Quadrant} {a : QuadArgs} {s : State} (hm : Rising s.mem)
    (h : QuadReady a s (quadRange a) (fullRange a)) :
    ∃ t, complete (effectQmerge q a s) s = .next t ∧ Ended s t 0x001 (.replicate 12 0) (mergeStores q a) ∧
      t.drawn = s.drawn ∧ ∀ r < quadHeight a, ∀ j < quadPitch a,
        memByte t.mem (quadRowInFull q a r + j) = memByte s.mem (quadRowInImage a r + j) := by
  have hs : ∀ r < quadHeight a, ∀ j < quadPitch a, mergeStores q a (quadRowInFull q a r + j) :=
    fun r hr j hj => ⟨r, hr, j, hj, rfl⟩
  refine ⟨_, ?_, rows_complete hm 0x001 (.replicate 12 0) (source := quadRowInImage a) (base := a.fullAddr + quadOrigin q a)
    (pitch := a.fullPitch) (fun _ => rfl) (Nat.div_le_self _ _) hs⟩
  rw [effectQmerge, quadFailure_of_passes h.passes, ← statusDone_eq]
  exact congrArg (fun e => complete e s) (guarded_pass h.apart _)

/-- What `BLIT` leaves where it is ready, whether or not the clipped rectangle is empty. -/
theorem blit_completes {fmt : PixelFormat} {gB gP : Nat} {b : BlitArgs} {s : State} (hg : granularity fmt = some (gB, gP))
    (hm : Rising s.mem) (h : BlitReady gP b s) :
    ∃ t, complete (effectBlit fmt b s) s = .next t ∧
      Ended s t 0x001 (resultWords [clipWidth gB gP b, clipHeight b]) (blitStores gB gP b) ∧ t.drawn = s.drawn ∧
      ∀ r < clipHeight b, ∀ j < blitRowBytes gB gP b,
        memByte t.mem (blitTarget gB gP b r + j) = memByte s.mem (blitSource gB gP b r + j) := by
  have he : effectBlit fmt b s =
      if blitRowBytes gB gP b = 0 ∨ clipHeight b = 0 then
        .done statusDone (resultsOf [clipWidth gB gP b, clipHeight b]) [] 0
      else .done statusDone (resultsOf [clipWidth gB gP b, clipHeight b]) (blitRuns gB gP b s.mem) 0 := by
    unfold effectBlit
    rw [if_neg (by rintro (e | e); exacts [h.notNull.1 e, h.notNull.2 e]), hg]
    dsimp only
    rw [blitFailure_eq, if_neg (not_not.2 ⟨h.notSame, h.notEmpty, h.whole⟩), if_neg (not_not.2 h.fits)]
    dsimp only
    rw [guarded_pass h.apart]
  have hs : ∀ r < clipHeight b, ∀ j < blitRowBytes gB gP b, blitStores gB gP b (blitTarget gB gP b r + j) :=
    fun r hr j hj => ⟨r, hr, j, hj, rfl⟩
  rw [he]
  by_cases hne : blitRowBytes gB gP b = 0 ∨ clipHeight b = 0
  · rw [if_pos hne]
    refine ⟨_, rfl, ?_, rfl, fun r hr j hj => by omega⟩
    rw [statusDone_eq, resultsOf_eq]
    exact succeed_ended_runs hm _ _ [] 0 fun x _ q hq => absurd hq List.not_mem_nil
  · rw [if_neg hne]
    have hrow := blit_row_in_pitch (gB := gB) (granularity_pos hg).2 h.whole.2.2 (by omega)
    have := Nat.div_mul_le_self b.dstPitch gB
    refine ⟨_, ?_, rows_complete hm 0x001 (resultWords [clipWidth gB gP b, clipHeight b]) (source := blitSource gB gP b)
      (base := b.dstAddr + b.dstY * b.dstPitch + b.dstX / gP * gB) (pitch := b.dstPitch)
      (fun r => by rw [blitTarget]; ring) (by omega) hs⟩
    rw [← statusDone_eq, ← resultsOf_eq]
    rfl

end Sys2Proof.Machine
end

