-- ==== Sys2Proof/Laws/Reader.lean ====
section
/-! SUPPORT. The reader's laws: when the checks of a view fail and pass, what `VIEW` leaves, and when `CMPV` says equal. -/

namespace Sys2Proof.Machine

/-! ## Checks -/

theorem viewFailure_unmodelled {fmt : PixelFormat} {d : Descriptor} {addr len : Nat} (h0 : addr ≠ 0) (h : ¬ isModelled fmt) :
    viewFailure fmt d addr len = some .unsupportedFormat := by
  rw [viewFailure, if_neg h0, if_pos h]

theorem viewFailure_geometry {fmt : PixelFormat} {d : Descriptor} {addr len : Nat} (h0 : addr ≠ 0) (hm : isModelled fmt)
    (h : ¬ viewGeometryPasses fmt d) : viewFailure fmt d addr len = some .badGeometry := by
  rw [viewFailure, if_neg h0, if_neg (not_not.2 hm)]
  split
  · rfl
  · split
    · rfl
    · rename_i h1 h2
      exact absurd ⟨by simpa using h1, fun hp => by_contra fun hn => h2 ⟨hp, hn⟩⟩ h

theorem viewFailure_size {fmt : PixelFormat} {d : Descriptor} {addr len : Nat} (h0 : addr ≠ 0) (hm : isModelled fmt)
    (hg : viewGeometryPasses fmt d) :
    viewFailure fmt d addr len = if fits addr len d.totalBytes then none else some .badBufferSize := by
  rw [viewFailure, if_neg h0, if_neg (not_not.2 hm), if_neg (by rw [hg.1]; decide),
    if_neg (fun h => h.2 (hg.2 h.1))]
  by_cases h : fits addr len d.totalBytes
  · rw [if_neg (not_not.2 h), if_pos h]
  · rw [if_pos h, if_neg h]

/-! ## VIEW -/

/-- Slot `j` of element `e` of line `line` of a view. -/
theorem viewSlots_getElem? {p : Params} {fmt : PixelFormat} {d : Descriptor} {m : Memory} {addr line e j : Nat}
    (hl : line < d.fullRasterHeight) (he : e < elementsPerLine fmt d) (hj : j < slotsPerElement fmt) :
    (viewSlots p fmt d m addr)[(line * elementsPerLine fmt d + e) * slotsPerElement fmt + j]? =
      (elementSlots p fmt d m addr line e)[j]? := by
  have hlen : ∀ line, ((List.range (elementsPerLine fmt d)).flatMap fun e => elementSlots p fmt d m addr line e).length =
      slotsPerElement fmt * elementsPerLine fmt d := fun line => length_flatMap_range _ (fun e => elementSlots_length ..) _
  have hin : slotsPerElement fmt * e + j < slotsPerElement fmt * elementsPerLine fmt d := by
    calc slotsPerElement fmt * e + j < slotsPerElement fmt * (e + 1) := by rw [Nat.mul_add]; omega
      _ ≤ _ := Nat.mul_le_mul_left _ he
  have h1 := getElem?_flatMap_range (count := d.fullRasterHeight)
    (fun line => (List.range (elementsPerLine fmt d)).flatMap fun e => elementSlots p fmt d m addr line e) hlen hl hin
  have h2 := getElem?_flatMap_range (count := elementsPerLine fmt d) (fun e => elementSlots p fmt d m addr line e)
    (fun e => elementSlots_length ..) he hj
  rw [viewSlots, ← h2, ← h1]
  congr 1
  ring

/-- A slot of a view is below 2^16. -/
theorem elementSlots_lt (p : Params) (fmt : PixelFormat) (d : Descriptor) (m : Memory) (addr line e : Nat) :
    ∀ x ∈ elementSlots p fmt d m addr line e, x < 65536 := by
  have one : ∀ a, memRead m a 1 < 65536 := fun a => Nat.lt_trans (memRead_lt m a 1) (by norm_num)
  have two : ∀ a, memRead m a 2 < 65536 := fun a => memRead_lt m a 2
  have ten : ∀ v lo, bitsAt v lo 10 < 65536 := fun v lo => Nat.lt_trans (bitsAt_lt v lo 10) (by norm_num)
  have bits2 : ∀ v lo, bitsAt v lo 2 < 65536 := fun v lo => Nat.lt_trans (bitsAt_lt v lo 2) (by norm_num)
  have pl : ∀ (l : ParamChoice) (a j : Nat), (groupPL2 l m a)[j]?.getD 0 < 65536 := by
    intro l a j
    rw [← List.getD_eq_getElem?_getD]
    by_cases hj : j < 16
    · rw [groupPL2_getD _ _ _ hj]; exact ten ..
    · rw [List.getD_eq_default _ _ (by simp; omega)]; omega
  cases fmt <;> simp [elementSlots, groupY10P, groupBytes, groupRGB48, groupRGB10P, planarSlots, biplanarSlots,
    -memRead_one, one, two, ten, bits2]
  case y10p => rintro _ i - k - rfl; exact ten ..
  case y10pBE => rintro _ i - k - rfl; exact ten ..
  case y10_420pl2 => rintro _ q - (rfl | rfl | rfl | rfl) <;> exact pl ..

/-- What `VIEW` leaves where it is ready: its slots, in order. -/
theorem view_completes {fmt : PixelFormat} {vm : Bool} {v : ViewArgs} {s : State} (hm : Rising s.mem)
    (h : ViewReady fmt (mkDesc fmt v.size vm) v s) :
    let d := mkDesc fmt v.size vm
    ∃ t, complete (effectView fmt vm v s) s = .next t ∧
      Ended s t 0x001 (resultWords [slotCount fmt d]) (inRange ⟨v.bAddr, 2 * slotCount fmt d⟩) ∧ t.drawn = s.drawn ∧
      ∀ i x, (viewSlots s.params fmt d s.mem v.aAddr)[i]? = some x → memRead t.mem (v.bAddr + 2 * i) 2 = x % 65536 := by
  intro d
  have hf : viewOpFailure fmt d v = none := by
    rw [viewOpFailure, if_neg (by rintro (e | e); exacts [h.notNull.1 e, h.notNull.2 e]),
      viewFailure_size h.notNull.1 h.modelled h.geometry, if_pos h.fitsA]
    exact if_neg (not_not.2 h.fitsB)
  have he : effectView fmt vm v s = .done statusDone (resultsOf [slotCount fmt d])
      [(v.bAddr, cellsBytes (viewSlots s.params fmt d s.mem v.aAddr))] 0 := by
    unfold effectView
    dsimp only
    rw [hf]
    exact guarded_pass h.apart _
  refine ⟨succeed statusDone (resultsOf [slotCount fmt d])
    [(v.bAddr, cellsBytes (viewSlots s.params fmt d s.mem v.aAddr))] 0 s, by rw [he]; rfl, ?_, rfl,
    fun i x hx => memRead_cells hm _ _ hx⟩
  rw [statusDone_eq, resultsOf_eq]
  exact succeed_ended hm _ _ _ _ _ fun x hx => by
    rw [cellsBytes_length, viewSlots_length]; simp only [inRange] at hx; omega

/-! ## CMPV -/

/-- Two views are equal when every slot that is not ignored agrees. -/
theorem viewsEqual_iff (p : Params) (fmt : PixelFormat) (d : Descriptor) (m : Memory) (a b : Nat) :
    viewsEqual p fmt d m a b = true ↔ ∀ line < d.fullRasterHeight, ∀ e < elementsPerLine fmt d,
      ∀ j < slotsPerElement fmt, ignoredSlot fmt j = false →
        (elementSlots p fmt d m a line e).getD j 0 = (elementSlots p fmt d m b line e).getD j 0 := by
  simp only [viewsEqual, slotsAgree, List.all_eq_true, List.mem_range, Bool.or_eq_true, decide_eq_true_eq]
  refine forall_congr' fun line => forall_congr' fun _ => forall_congr' fun e => forall_congr' fun _ =>
    forall_congr' fun j => forall_congr' fun _ => ?_
  cases ignoredSlot fmt j <;> simp

/-- What `CMPV` leaves where it is ready. -/
theorem cmpv_completes {fmt : PixelFormat} {vm : Bool} {v : ViewArgs} {s : State}
    (h : CompareReady fmt (mkDesc fmt v.size vm) v s) :
    complete (effectCmpv fmt vm v s) s = .next { s with
      status := if viewsEqual s.params fmt (mkDesc fmt v.size vm) s.mem v.aAddr v.bAddr then 0x101 else 0x201
      res := .replicate 12 0 } := by
  unfold effectCmpv
  dsimp only
  rw [if_neg (by rintro (e | e); exacts [h.notNull.1 e, h.notNull.2 e]), if_neg (not_not.2 h.modelled),
    viewFailure_size h.notNull.1 h.modelled h.geometry, if_pos h.fitsA,
    viewFailure_size h.notNull.2 h.modelled h.geometry, if_pos h.fitsB]
  dsimp only
  rw [guarded_reads h.backed.1 h.backed.2, complete, statusCompared_eq]
  rfl

end Sys2Proof.Machine
end

