-- ==== Sys2Proof/Tests/Slice0.lean ====
section
/-! SUPPORT. Tests: the checks of WellFormed refuse ill-formed terms; the words of every command decode to it; vectors of
95_test_vectors.md and 96_test_vectors_transforms.md (the expected values are theirs); and for each statement a state and
operands that meet its hypotheses. -/

namespace Sys2Proof.Tests

open Sys2Proof.Machine

/-! ## WellFormed refuses -/

theorem test_illFormed_word : wordOk 0x100000000 = false ∧ wordOk 0xFFFFFFFF = true := by decide

theorem test_illFormed_format : PixelFormat.wf (.unassigned 12) = false ∧ PixelFormat.wf (.unassigned 64) = false ∧
    PixelFormat.wf (.unassigned 63) = true := by decide

theorem test_illFormed_rasterSize : RasterSize.wf ⟨0x100000000, 0, 0⟩ = false ∧ RasterSize.wf ⟨0, 0x100000000, 0⟩ =
    false ∧ RasterSize.wf ⟨0, 0, 0x100000000⟩ = false := by decide

theorem test_illFormed_lineDescriptor : LineDescriptor.wf ⟨.unassigned 64, true, ⟨0, 0, 0⟩⟩ = false ∧
    LineDescriptor.wf ⟨.y10p, true, ⟨0x100000000, 0, 0⟩⟩ = false := by decide

theorem test_illFormed_lineArgs : LineArgs.wf ⟨0x100000000, 1, 1, 1, 1, none⟩ = false ∧ LineArgs.wf ⟨1, 0x100000000,
    1, 1, 1, none⟩ = false ∧ LineArgs.wf ⟨1, 1, 0x100000000, 1, 1, none⟩ = false ∧ LineArgs.wf ⟨1, 1, 1, 0x100000000,
    1, none⟩ = false ∧ LineArgs.wf ⟨1, 1, 1, 1, 0x100000000, none⟩ = false ∧ LineArgs.wf ⟨1, 1, 1, 1, 1, some
    ⟨.unassigned 64, true, ⟨0, 0, 0⟩⟩⟩ = false := by decide

theorem test_illFormed_linePair : LinePair.wf ⟨0x100000000, 1, 1, 1, 1⟩ = false ∧ LinePair.wf ⟨1, 0x100000000, 1, 1,
    1⟩ = false ∧ LinePair.wf ⟨1, 1, 0x100000000, 1, 1⟩ = false ∧ LinePair.wf ⟨1, 1, 1, 0x100000000, 1⟩ = false ∧
    LinePair.wf ⟨1, 1, 1, 1, 0x100000000⟩ = false := by decide

theorem test_illFormed_viewArgs : ViewArgs.wf ⟨0x100000000, 1, 1, 1, ⟨0, 0, 0⟩⟩ = false ∧ ViewArgs.wf ⟨1, 0x100000000,
    1, 1, ⟨0, 0, 0⟩⟩ = false ∧ ViewArgs.wf ⟨1, 1, 0x100000000, 1, ⟨0, 0, 0⟩⟩ = false ∧ ViewArgs.wf ⟨1, 1, 1,
    0x100000000, ⟨0, 0, 0⟩⟩ = false ∧ ViewArgs.wf ⟨1, 1, 1, 1, ⟨0, 0, 0x100000000⟩⟩ = false := by decide

theorem test_illFormed_blitArgs : BlitArgs.wf ⟨0x100000000, 1, 1, 1, 1, 1, 1, 1, 1, 1, 1, 1⟩ = false ∧ BlitArgs.wf ⟨1,
    0x100000000, 1, 1, 1, 1, 1, 1, 1, 1, 1, 1⟩ = false ∧ BlitArgs.wf ⟨1, 1, 0x100000000, 1, 1, 1, 1, 1, 1, 1, 1, 1⟩ =
    false ∧ BlitArgs.wf ⟨1, 1, 1, 0x100000000, 1, 1, 1, 1, 1, 1, 1, 1⟩ = false ∧ BlitArgs.wf ⟨1, 1, 1, 1, 0x100000000,
    1, 1, 1, 1, 1, 1, 1⟩ = false ∧ BlitArgs.wf ⟨1, 1, 1, 1, 1, 0x100000000, 1, 1, 1, 1, 1, 1⟩ = false ∧ BlitArgs.wf
    ⟨1, 1, 1, 1, 1, 1, 0x100000000, 1, 1, 1, 1, 1⟩ = false ∧ BlitArgs.wf ⟨1, 1, 1, 1, 1, 1, 1, 0x100000000, 1, 1, 1,
    1⟩ = false ∧ BlitArgs.wf ⟨1, 1, 1, 1, 1, 1, 1, 1, 0x100000000, 1, 1, 1⟩ = false ∧ BlitArgs.wf ⟨1, 1, 1, 1, 1, 1,
    1, 1, 1, 0x100000000, 1, 1⟩ = false ∧ BlitArgs.wf ⟨1, 1, 1, 1, 1, 1, 1, 1, 1, 1, 0x100000000, 1⟩ = false ∧
    BlitArgs.wf ⟨1, 1, 1, 1, 1, 1, 1, 1, 1, 1, 1, 0x100000000⟩ = false := by decide

theorem test_illFormed_quadArgs : QuadArgs.wf ⟨0x100000000, 1, 1, 1, 1⟩ = false ∧ QuadArgs.wf ⟨1, 0x100000000, 1, 1,
    1⟩ = false ∧ QuadArgs.wf ⟨1, 1, 0x100000000, 1, 1⟩ = false ∧ QuadArgs.wf ⟨1, 1, 1, 0x100000000, 1⟩ = false ∧
    QuadArgs.wf ⟨1, 1, 1, 1, 0x100000000⟩ = false := by decide

/-- A command with an operand that is no word, or a format that is no code, is ill-formed; for every row. -/
theorem test_illFormed_commands :
    ([.geom (.unassigned 64), .desc (.unassigned 64) true ⟨0, 0, 0⟩, .desc .y8p true ⟨0x100000000, 0, 0⟩,
      .cscY2R true true true true .d8 ⟨0x100000000, 1, 1, 1, 1⟩, .cscR2Y true true true .d8 ⟨0x100000000, 1, 1, 1, 1⟩,
      .cscRDepth true .d8 .d8 ⟨0x100000000, 1, 1, 1, 1⟩, .view (.unassigned 64) true ⟨1, 1, 1, 1, ⟨0, 0, 0⟩⟩,
      .view .y8p true ⟨0x100000000, 1, 1, 1, ⟨0, 0, 0⟩⟩, .cmpv (.unassigned 64) true ⟨1, 1, 1, 1, ⟨0, 0, 0⟩⟩,
      .cmpv .y8p true ⟨0x100000000, 1, 1, 1, ⟨0, 0, 0⟩⟩, .blit (.unassigned 64) ⟨1, 1, 1, 1, 1, 1, 1, 1, 1, 1, 1, 1⟩,
      .blit .y8p ⟨0x100000000, 1, 1, 1, 1, 1, 1, 1, 1, 1, 1, 1⟩, .qsplit .upperLeft ⟨0x100000000, 1, 1, 1, 1⟩,
      .qmerge .upperLeft ⟨0x100000000, 1, 1, 1, 1⟩] : List Instr).all (fun i => !i.wf) = true ∧
    (uncodedRows ++ codecPairs.map CodecPair.pack ++ codecPairs.map CodecPair.unpack).all
      (fun make => !(make ⟨0x100000000, 1, 1, 1, 1, none⟩).wf) = true := by
  decide

/-! ## Decoding, by words written out from 30_encoding.md -/

/-- Sixteen words of which the last six are zero. -/
def words (w0 w1 w2 w3 w4 w5 w6 w7 w8 w9 : Nat) : Command := commandOfNats w0 w1 w2 w3 w4 w5 w6 w7 w8 w9 0 0 0 0 0 0

/-- A first word of format L without a descriptor decodes to a row with its five operands. -/
def readsAs (w0 : Nat) (make : LineArgs → Instr) : Bool :=
  decide (decode (words w0 1 2 3 4 5 0 0 0 0) = .ok (make ⟨1, 2, 3, 4, 5, none⟩))

theorem test_decode_unpack_named : readsAs 0x0010 .unpackY10P = true ∧ readsAs 0x0110 .unpackY10P_BE = true ∧ readsAs
    0x0210 .unpackY8P = true ∧ readsAs 0x0310 .unpackRGB24 = true ∧ readsAs 0x0410 .unpackRGBA32 = true ∧ readsAs
    0x0510 .unpackRGB48 = true ∧ readsAs 0x0610 .unpackRGB10P = true ∧ readsAs 0x0710 .unpackRGB10P_BE = true ∧
    readsAs 0x0810 .unpackRGB12P = true ∧ readsAs 0x0910 .unpackY10_420_PL2 = true ∧ readsAs 0x0A10 .unpackY8_422_PL3
    = true ∧ readsAs 0x0B10 .unpackY8_420_PL3 = true ∧ readsAs 0x0C10 .unpackCOMPRESSED = true := by decide

theorem test_decode_unpack_13_to_29 : readsAs 0x0D10 .unpack13 = true ∧ readsAs 0x0E10 .unpack14 = true ∧ readsAs
    0x0F10 .unpack15 = true ∧ readsAs 0x1010 .unpack16 = true ∧ readsAs 0x1110 .unpack17 = true ∧ readsAs 0x1210
    .unpack18 = true ∧ readsAs 0x1310 .unpack19 = true ∧ readsAs 0x1410 .unpack20 = true ∧ readsAs 0x1510 .unpack21 =
    true ∧ readsAs 0x1610 .unpack22 = true ∧ readsAs 0x1710 .unpack23 = true ∧ readsAs 0x1810 .unpack24 = true ∧
    readsAs 0x1910 .unpack25 = true ∧ readsAs 0x1A10 .unpack26 = true ∧ readsAs 0x1B10 .unpack27 = true ∧ readsAs
    0x1C10 .unpack28 = true ∧ readsAs 0x1D10 .unpack29 = true := by decide

theorem test_decode_unpack_30_to_46 : readsAs 0x1E10 .unpack30 = true ∧ readsAs 0x1F10 .unpack31 = true ∧ readsAs
    0x2010 .unpack32 = true ∧ readsAs 0x2110 .unpack33 = true ∧ readsAs 0x2210 .unpack34 = true ∧ readsAs 0x2310
    .unpack35 = true ∧ readsAs 0x2410 .unpack36 = true ∧ readsAs 0x2510 .unpack37 = true ∧ readsAs 0x2610 .unpack38 =
    true ∧ readsAs 0x2710 .unpack39 = true ∧ readsAs 0x2810 .unpack40 = true ∧ readsAs 0x2910 .unpack41 = true ∧
    readsAs 0x2A10 .unpack42 = true ∧ readsAs 0x2B10 .unpack43 = true ∧ readsAs 0x2C10 .unpack44 = true ∧ readsAs
    0x2D10 .unpack45 = true ∧ readsAs 0x2E10 .unpack46 = true := by decide

theorem test_decode_unpack_47_to_63 : readsAs 0x2F10 .unpack47 = true ∧ readsAs 0x3010 .unpack48 = true ∧ readsAs
    0x3110 .unpack49 = true ∧ readsAs 0x3210 .unpack50 = true ∧ readsAs 0x3310 .unpack51 = true ∧ readsAs 0x3410
    .unpack52 = true ∧ readsAs 0x3510 .unpack53 = true ∧ readsAs 0x3610 .unpack54 = true ∧ readsAs 0x3710 .unpack55 =
    true ∧ readsAs 0x3810 .unpack56 = true ∧ readsAs 0x3910 .unpack57 = true ∧ readsAs 0x3A10 .unpack58 = true ∧
    readsAs 0x3B10 .unpack59 = true ∧ readsAs 0x3C10 .unpack60 = true ∧ readsAs 0x3D10 .unpack61 = true ∧ readsAs
    0x3E10 .unpack62 = true ∧ readsAs 0x3F10 .unpack63 = true := by decide

theorem test_decode_pack_named : readsAs 0x0011 .packY10P = true ∧ readsAs 0x0111 .packY10P_BE = true ∧ readsAs 0x0211
    .packY8P = true ∧ readsAs 0x0311 .packRGB24 = true ∧ readsAs 0x0411 .packRGBA32 = true ∧ readsAs 0x0511 .packRGB48
    = true ∧ readsAs 0x0611 .packRGB10P = true ∧ readsAs 0x0711 .packRGB10P_BE = true ∧ readsAs 0x0811 .packRGB12P =
    true ∧ readsAs 0x0911 .packY10_420_PL2 = true ∧ readsAs 0x0A11 .packY8_422_PL3 = true ∧ readsAs 0x0B11
    .packY8_420_PL3 = true ∧ readsAs 0x0C11 .packCOMPRESSED = true := by decide

theorem test_decode_pack_13_to_29 : readsAs 0x0D11 .pack13 = true ∧ readsAs 0x0E11 .pack14 = true ∧ readsAs 0x0F11
    .pack15 = true ∧ readsAs 0x1011 .pack16 = true ∧ readsAs 0x1111 .pack17 = true ∧ readsAs 0x1211 .pack18 = true ∧
    readsAs 0x1311 .pack19 = true ∧ readsAs 0x1411 .pack20 = true ∧ readsAs 0x1511 .pack21 = true ∧ readsAs 0x1611
    .pack22 = true ∧ readsAs 0x1711 .pack23 = true ∧ readsAs 0x1811 .pack24 = true ∧ readsAs 0x1911 .pack25 = true ∧
    readsAs 0x1A11 .pack26 = true ∧ readsAs 0x1B11 .pack27 = true ∧ readsAs 0x1C11 .pack28 = true ∧ readsAs 0x1D11
    .pack29 = true := by decide

theorem test_decode_pack_30_to_46 : readsAs 0x1E11 .pack30 = true ∧ readsAs 0x1F11 .pack31 = true ∧ readsAs 0x2011
    .pack32 = true ∧ readsAs 0x2111 .pack33 = true ∧ readsAs 0x2211 .pack34 = true ∧ readsAs 0x2311 .pack35 = true ∧
    readsAs 0x2411 .pack36 = true ∧ readsAs 0x2511 .pack37 = true ∧ readsAs 0x2611 .pack38 = true ∧ readsAs 0x2711
    .pack39 = true ∧ readsAs 0x2811 .pack40 = true ∧ readsAs 0x2911 .pack41 = true ∧ readsAs 0x2A11 .pack42 = true ∧
    readsAs 0x2B11 .pack43 = true ∧ readsAs 0x2C11 .pack44 = true ∧ readsAs 0x2D11 .pack45 = true ∧ readsAs 0x2E11
    .pack46 = true := by decide

theorem test_decode_pack_47_to_63 : readsAs 0x2F11 .pack47 = true ∧ readsAs 0x3011 .pack48 = true ∧ readsAs 0x3111
    .pack49 = true ∧ readsAs 0x3211 .pack50 = true ∧ readsAs 0x3311 .pack51 = true ∧ readsAs 0x3411 .pack52 = true ∧
    readsAs 0x3511 .pack53 = true ∧ readsAs 0x3611 .pack54 = true ∧ readsAs 0x3711 .pack55 = true ∧ readsAs 0x3811
    .pack56 = true ∧ readsAs 0x3911 .pack57 = true ∧ readsAs 0x3A11 .pack58 = true ∧ readsAs 0x3B11 .pack59 = true ∧
    readsAs 0x3C11 .pack60 = true ∧ readsAs 0x3D11 .pack61 = true ∧ readsAs 0x3E11 .pack62 = true ∧ readsAs 0x3F11
    .pack63 = true := by decide

/-- Format L with a descriptor: `HD` is bit 20, `dfmt` bits 19:14, `VM` bit 21, the raster words 6 to 8. -/
theorem test_decode_line_descriptor :
    decode (words 0x0030C910 1 2 3 4 5 6 7 8 0) =
      .ok (.unpackY10_420_PL2 ⟨1, 2, 3, 4, 5, some ⟨.rgb24, true, ⟨6, 7, 8⟩⟩⟩) ∧
    decode (words 0x001FC011 1 2 3 4 5 6 7 8 0) =
      .ok (.packY10P ⟨1, 2, 3, 4, 5, some ⟨.unassigned 63, false, ⟨6, 7, 8⟩⟩⟩) := by decide

/-- Formats G, C, V, B and Q, each flag and field of `CMD[0]` alone in some word. -/
theorem test_decode_geom_desc :
    decode (words 0x00003F01 0 0 0 0 0 0 0 0 0) = .ok (.geom (.unassigned 63)) ∧
    decode (words 0x00000C02 1 2 3 0 0 0 0 0 0) = .ok (.desc .compressed false ⟨1, 2, 3⟩) ∧
    decode (words 0x00200D02 1 2 3 0 0 0 0 0 0) = .ok (.desc (.unassigned 13) true ⟨1, 2, 3⟩) := by decide

theorem test_decode_csc :
    decode (words 0x00400020 1 2 3 4 5 0 0 0 0) = .ok (.cscY2R true false false false .d8 ⟨1, 2, 3, 4, 5⟩) ∧
    decode (words 0x00800020 1 2 3 4 5 0 0 0 0) = .ok (.cscY2R false true false false .d8 ⟨1, 2, 3, 4, 5⟩) ∧
    decode (words 0x01000020 1 2 3 4 5 0 0 0 0) = .ok (.cscY2R false false true false .d8 ⟨1, 2, 3, 4, 5⟩) ∧
    decode (words 0x02000020 1 2 3 4 5 0 0 0 0) = .ok (.cscY2R false false false true .d8 ⟨1, 2, 3, 4, 5⟩) ∧
    decode (words 0x04000021 1 2 3 4 5 0 0 0 0) = .ok (.cscR2Y false false false .d10 ⟨1, 2, 3, 4, 5⟩) ∧
    decode (words 0x0A800021 1 2 3 4 5 0 0 0 0) = .ok (.cscR2Y false true true .d16 ⟨1, 2, 3, 4, 5⟩) ∧
    decode (words 0x00400021 1 2 3 4 5 0 0 0 0) = .ok (.cscR2Y true false false .d8 ⟨1, 2, 3, 4, 5⟩) ∧
    decode (words 0x18000022 1 2 3 4 5 0 0 0 0) = .ok (.cscRDepth false .d16 .d10 ⟨1, 2, 3, 4, 5⟩) ∧
    decode (words 0x26000022 1 2 3 4 5 0 0 0 0) = .ok (.cscRDepth true .d10 .d16 ⟨1, 2, 3, 4, 5⟩) := by decide

theorem test_decode_reader :
    decode (words 0x00200A30 1 2 3 4 5 6 7 0 0) = .ok (.view .y8_422pl3 true ⟨1, 2, 3, 4, ⟨5, 6, 7⟩⟩) ∧
    decode (words 0x00000B30 1 2 3 4 5 6 7 0 0) = .ok (.view .y8_420pl3 false ⟨1, 2, 3, 4, ⟨5, 6, 7⟩⟩) ∧
    decode (words 0x00200831 1 2 3 4 5 6 7 0 0) = .ok (.cmpv .rgb12p true ⟨1, 2, 3, 4, ⟨5, 6, 7⟩⟩) ∧
    decode (words 0x00000131 1 2 3 4 5 6 7 0 0) = .ok (.cmpv .y10pBE false ⟨1, 2, 3, 4, ⟨5, 6, 7⟩⟩) := by decide

theorem test_decode_raster :
    decode (commandOfNats 0x00000540 1 2 3 4 5 6 7 8 9 10 11 12 0 0 0) =
      .ok (.blit .rgb48 ⟨1, 2, 3, 4, 5, 6, 7, 8, 9, 10, 11, 12⟩) ∧
    decode (words 0x00000041 1 2 3 4 5 0 0 0 0) = .ok (.qsplit .upperLeft ⟨1, 2, 3, 4, 5⟩) ∧
    decode (words 0x40000041 1 2 3 4 5 0 0 0 0) = .ok (.qsplit .upperRight ⟨1, 2, 3, 4, 5⟩) ∧
    decode (words 0x80000042 1 2 3 4 5 0 0 0 0) = .ok (.qmerge .lowerLeft ⟨1, 2, 3, 4, 5⟩) ∧
    decode (words 0xC0000042 1 2 3 4 5 0 0 0 0) = .ok (.qmerge .lowerRight ⟨1, 2, 3, 4, 5⟩) := by decide

/-- Each cause of an illegal command (30_encoding.md R90), and the neighbours that are legal. -/
theorem test_decode_illegal :
    decode (words 0 0 0 0 0 0 0 0 0 0) = .error .unknownOpcode ∧
    decode (words 0x12 0 0 0 0 0 0 0 0 0) = .error .unknownOpcode ∧
    decode (words 0x00004001 0 0 0 0 0 0 0 0 0) = .error .unusedField ∧
    decode (words 0x00004010 1 2 3 4 5 0 0 0 0) = .error .unusedField ∧
    decode (words 0x00200010 1 2 3 4 5 0 0 0 0) = .error .unusedField ∧
    decode (words 0x00000010 1 2 3 4 5 1 0 0 0) = .error .unusedWord ∧
    decode (words 0x00100010 1 2 3 4 5 1 0 0 0) ≠ .error .unusedWord ∧
    decode (words 0x00100010 1 2 3 4 5 1 0 0 1) = .error .unusedWord ∧
    decode (words 0x0C000020 1 2 3 4 5 0 0 0 0) = .error .reservedDepth ∧
    decode (words 0x30000022 1 2 3 4 5 0 0 0 0) = .error .reservedDepth ∧
    decode (words 0x01000021 1 2 3 4 5 0 0 0 0) = .error .unusedField ∧
    decode (words 0x00400022 1 2 3 4 5 0 0 0 0) = .error .unusedField := by decide

/-- The unused fields are the must-be-zero masks of spec/opcode_table.json; without a descriptor format L has its further
mask as well. -/
theorem test_masks :
    maskOf geomUnused = 0xFFFFC000 ∧ maskOf descUnused = 0xFFDFC000 ∧ maskOf lineUnused = 0xFFC00000 ∧
    maskOf lineUnusedWithoutDescriptor = 0xFFC00000 ||| 0x002FC000 ∧ maskOf y2rUnused = 0xF03FFF00 ∧
    maskOf r2yUnused = 0xF13FFF00 ∧ maskOf rdepthUnused = 0xC1FFFF00 ∧ maskOf viewUnused = 0xFFDFC000 ∧
    maskOf blitUnused = 0xFFFFC000 ∧ maskOf quadUnused = 0x3FFFFF00 := by decide

/-! ## Vectors -/

/-- Memory with runs of bytes stored. -/
def memoryOf (runs : List (Nat × List Nat)) : Memory := storeRuns [] (runs.map fun r => (r.1, r.2.map (.ofNat 8)))

/-- After a `GO` write on these command words and this memory, `STATUS`, `RES` and these bytes are as given. -/
def ran (ws : List Nat) (before : List (Nat × List Nat)) (status : Nat) (res : List Nat) (after : List (Nat × List Nat)) :
    Bool :=
  match step { State.reset with
      cmd := .ofFn fun i => .ofNat 32 (ws.getD i 0), mem := memoryOf before, pending := [goWrite] } with
  | .next t =>
    decide (t.status = .ofNat 32 status) && decide (t.res = resultWords res) &&
      after.all fun r => decide (memBytes t.mem r.1 r.2.length = r.2.map (.ofNat 8))
  | .fault _ => false
  | .refused _ => false

/-- Vector TG9. -/
theorem test_geom : ran [0x901] [] 0x1 [20, 16, 16, 2] [] = true := by decide

/-- Vector TG8. -/
theorem test_geom_unmodelled : ran [0x801] [] 0x1 [] [] = true := by decide

/-- Vector TD12. -/
theorem test_desc : ran [0x200002, 1920, 1080, 32] [] 0x401 [1920, 1112, 1080, 1, 32, 5120, 0, 0, 5693440] [] = true
    := by decide

/-- Vector TD29. -/
theorem test_desc_large : ran [0x502, 0x40000000, 1] [] 0x33 [] [] = true := by decide

/-- Vector TL0. -/
theorem test_unpack_Y10P : ran [0x10, 0x2000, 16, 0x3000, 64, 6] [(0x2000, [0xff, 0x3, 0xf0, 0x3f, 0x0, 0xfc, 0xf,
    0x0, 0xff, 0x3, 0xf0, 0x3f, 0x0, 0xfc, 0xf, 0x0])] 0x1 [] [(0x3000, [0xff, 0x3, 0x0, 0x0, 0xff, 0x3, 0x0, 0x0,
    0xff, 0x3, 0x0, 0x0, 0xff, 0x3, 0x0, 0x0, 0xff, 0x3, 0x0, 0x0, 0xff, 0x3, 0x0, 0x0])] = true := by decide

/-- Vector TL0. -/
theorem test_pack_Y10P : ran [0x11, 0x2000, 64, 0x3000, 24, 6] [(0x3000, [0xff, 0x3, 0x0, 0x0, 0xff, 0x3, 0x0, 0x0,
    0xff, 0x3, 0x0, 0x0, 0xff, 0x3, 0x0, 0x0, 0xff, 0x3, 0x0, 0x0, 0xff, 0x3, 0x0, 0x0])] 0x1 [] [(0x2000, [0xff, 0x3,
    0xf0, 0x3f, 0x0, 0xfc, 0xf, 0x0, 0xff, 0x3, 0xf0, 0x3f, 0x0, 0xfc, 0xf, 0x0])] = true := by decide

/-- Vector TL16: bits 31:30 are dropped. -/
theorem test_unpack_Y10P_bits : ran [0x10, 0x2000, 16, 0x3000, 24, 6] [(0x2000, [0xff, 0xff, 0xff, 0xff, 0xff, 0xff,
    0xff, 0xff, 0xff, 0xff, 0xff, 0xff, 0xff, 0xff, 0xff, 0xff])] 0x1 [] [(0x3000, [0xff, 0x3, 0xff, 0x3, 0xff, 0x3,
    0xff, 0x3, 0xff, 0x3, 0xff, 0x3, 0xff, 0x3, 0xff, 0x3, 0xff, 0x3, 0xff, 0x3, 0xff, 0x3, 0xff, 0x3])] = true := by
    decide

/-- Vector TL16: bits 31:30 are zero. -/
theorem test_pack_Y10P_bits : ran [0x11, 0x2000, 16, 0x3000, 24, 6] [(0x3000, [0xff, 0x3, 0xff, 0x3, 0xff, 0x3, 0xff,
    0x3, 0xff, 0x3, 0xff, 0x3, 0xff, 0x3, 0xff, 0x3, 0xff, 0x3, 0xff, 0x3, 0xff, 0x3, 0xff, 0x3])] 0x1 [] [(0x2000,
    [0xff, 0xff, 0xff, 0x3f, 0xff, 0xff, 0xff, 0x3f, 0xff, 0xff, 0xff, 0x3f, 0xff, 0xff, 0xff, 0x3f])] = true := by
    decide

/-- Vector TL2. -/
theorem test_unpack_Y10P_BE : ran [0x110, 0x2000, 16, 0x3000, 64, 6] [(0x2000, [0x0, 0x30, 0x8, 0x1, 0x0, 0x60, 0x14,
    0x4, 0x0, 0x90, 0x20, 0x7, 0x0, 0xc0, 0x2c, 0xa])] 0x1 [] [(0x3000, [0x1, 0x0, 0x2, 0x0, 0x3, 0x0, 0x4, 0x0, 0x5,
    0x0, 0x6, 0x0, 0x7, 0x0, 0x8, 0x0, 0x9, 0x0, 0xa, 0x0, 0xb, 0x0, 0xc, 0x0])] = true := by decide

/-- Vector TL2. -/
theorem test_pack_Y10P_BE : ran [0x111, 0x2000, 64, 0x3000, 24, 6] [(0x3000, [0x1, 0x0, 0x2, 0x0, 0x3, 0x0, 0x4, 0x0,
    0x5, 0x0, 0x6, 0x0, 0x7, 0x0, 0x8, 0x0, 0x9, 0x0, 0xa, 0x0, 0xb, 0x0, 0xc, 0x0])] 0x1 [] [(0x2000, [0x0, 0x30,
    0x8, 0x1, 0x0, 0x60, 0x14, 0x4, 0x0, 0x90, 0x20, 0x7, 0x0, 0xc0, 0x2c, 0xa])] = true := by decide

/-- Vector TL3. -/
theorem test_unpack_Y8P : ran [0x210, 0x2000, 4, 0x3000, 64, 2] [(0x2000, [0x0, 0xff, 0x1, 0xfe])] 0x1 [] [(0x3000,
    [0x0, 0x0, 0xff, 0x0, 0x1, 0x0, 0xfe, 0x0])] = true := by decide

/-- Vector TL3. -/
theorem test_pack_Y8P : ran [0x211, 0x2000, 64, 0x3000, 8, 2] [(0x3000, [0x0, 0x0, 0xff, 0x0, 0x1, 0x0, 0xfe, 0x0])]
    0x1 [] [(0x2000, [0x0, 0xff, 0x1, 0xfe])] = true := by decide

/-- Vector TL4. -/
theorem test_unpack_RGB24 : ran [0x310, 0x2000, 6, 0x3000, 64, 2] [(0x2000, [0x1, 0x2, 0x3, 0x4, 0x5, 0x6])] 0x1 []
    [(0x3000, [0x1, 0x0, 0x2, 0x0, 0x3, 0x0, 0x4, 0x0, 0x5, 0x0, 0x6, 0x0])] = true := by decide

/-- Vector TL4. -/
theorem test_pack_RGB24 : ran [0x311, 0x2000, 64, 0x3000, 12, 2] [(0x3000, [0x1, 0x0, 0x2, 0x0, 0x3, 0x0, 0x4, 0x0,
    0x5, 0x0, 0x6, 0x0])] 0x1 [] [(0x2000, [0x1, 0x2, 0x3, 0x4, 0x5, 0x6])] = true := by decide

/-- Vector TL5. -/
theorem test_unpack_RGBA32 : ran [0x410, 0x2000, 4, 0x3000, 64, 1] [(0x2000, [0x1, 0x2, 0x3, 0xff])] 0x1 [] [(0x3000,
    [0x1, 0x0, 0x2, 0x0, 0x3, 0x0, 0xff, 0x0])] = true := by decide

/-- Vector TL5. -/
theorem test_pack_RGBA32 : ran [0x411, 0x2000, 64, 0x3000, 8, 1] [(0x3000, [0x1, 0x0, 0x2, 0x0, 0x3, 0x0, 0xff, 0x0])]
    0x1 [] [(0x2000, [0x1, 0x2, 0x3, 0xff])] = true := by decide

/-- Vector TL6. -/
theorem test_unpack_RGB48 : ran [0x510, 0x2000, 6, 0x3000, 64, 1] [(0x2000, [0x34, 0x12, 0xcd, 0xab, 0x0, 0x80])] 0x1
    [] [(0x3000, [0x34, 0x12, 0xcd, 0xab, 0x0, 0x80])] = true := by decide

/-- Vector TL6. -/
theorem test_pack_RGB48 : ran [0x511, 0x2000, 64, 0x3000, 6, 1] [(0x3000, [0x34, 0x12, 0xcd, 0xab, 0x0, 0x80])] 0x1 []
    [(0x2000, [0x34, 0x12, 0xcd, 0xab, 0x0, 0x80])] = true := by decide

/-- Vector TL7. -/
theorem test_unpack_RGB10P : ran [0x610, 0x2000, 4, 0x3000, 64, 1] [(0x2000, [0x0, 0xf0, 0x3f, 0x0])] 0x1 [] [(0x3000,
    [0x0, 0x0, 0xff, 0x3, 0x0, 0x0, 0x0, 0x0])] = true := by decide

/-- Vector TL7. -/
theorem test_pack_RGB10P : ran [0x611, 0x2000, 64, 0x3000, 8, 1] [(0x3000, [0x0, 0x0, 0xff, 0x3, 0x0, 0x0, 0x0, 0x0])]
    0x1 [] [(0x2000, [0x0, 0xf0, 0x3f, 0x0])] = true := by decide

/-- Vector TL9. -/
theorem test_unpack_RGB10P_BE : ran [0x710, 0x2000, 4, 0x3000, 64, 1] [(0x2000, [0x0, 0x40, 0x20, 0xd])] 0x1 []
    [(0x3000, [0x1, 0x0, 0x2, 0x0, 0x3, 0x0, 0x1, 0x0])] = true := by decide

/-- Vector TL9. -/
theorem test_pack_RGB10P_BE : ran [0x711, 0x2000, 64, 0x3000, 8, 1] [(0x3000, [0x1, 0x0, 0x2, 0x0, 0x3, 0x0, 0x1,
    0x0])] 0x1 [] [(0x2000, [0x0, 0x40, 0x20, 0xd])] = true := by decide

/-- Vector TL11. -/
theorem test_unpack_Y10_420_PL2 : ran [0x910, 0x2000, 20, 0x3000, 64, 16] [(0x2000, [0xff, 0x3, 0x0, 0x0, 0x0, 0x0,
    0x0, 0x0, 0x0, 0x0, 0x0, 0x0, 0x0, 0x0, 0x0, 0x0, 0x0, 0x0, 0xc0, 0xff])] 0x1 [] [(0x3000, [0xff, 0x3, 0x0, 0x0,
    0x0, 0x0, 0x0, 0x0, 0x0, 0x0, 0x0, 0x0, 0x0, 0x0, 0x0, 0x0, 0x0, 0x0, 0x0, 0x0, 0x0, 0x0, 0x0, 0x0, 0x0, 0x0, 0x0,
    0x0, 0x0, 0x0, 0xff, 0x3])] = true := by decide

/-- Vector TL11. -/
theorem test_pack_Y10_420_PL2 : ran [0x911, 0x2000, 64, 0x3000, 32, 16] [(0x3000, [0xff, 0x3, 0x0, 0x0, 0x0, 0x0, 0x0,
    0x0, 0x0, 0x0, 0x0, 0x0, 0x0, 0x0, 0x0, 0x0, 0x0, 0x0, 0x0, 0x0, 0x0, 0x0, 0x0, 0x0, 0x0, 0x0, 0x0, 0x0, 0x0, 0x0,
    0xff, 0x3])] 0x1 [] [(0x2000, [0xff, 0x3, 0x0, 0x0, 0x0, 0x0, 0x0, 0x0, 0x0, 0x0, 0x0, 0x0, 0x0, 0x0, 0x0, 0x0,
    0x0, 0x0, 0xc0, 0xff])] = true := by decide

/-- Vector TL26. -/
theorem test_unpack_COMPRESSED : ran [0xc10, 0x2000, 16, 0x3000, 24, 6] [(0x2000, [0x5]), (0x3000, [0x7])] 0x13 []
    [(0x2000, [0x5])] = true := by decide

/-- Vector TC0. -/
theorem test_cscY2R : ran [0x3000020, 0x4000, 8, 0x5000, 16, 2] [(0x4000, [0x0, 0x2, 0x40, 0x0, 0x0, 0x2, 0xac, 0x3])]
    0x1 [] [(0x5000, [0x0, 0x0, 0x0, 0x0, 0x0, 0x0, 0x10, 0x0, 0xff, 0x0, 0xff, 0x0, 0xff, 0x0, 0xeb, 0x0])] = true :=
    by decide

/-- Vector TC11. -/
theorem test_cscY2R_average : ran [0x7000020, 0x4000, 16, 0x5000, 32, 4] [(0x4000, [0x64, 0x0, 0xf4, 0x1, 0xc8, 0x0,
    0xf4, 0x1, 0x2d, 0x1, 0xf4, 0x1, 0x91, 0x1, 0xf4, 0x1])] 0x1 [] [(0x5000, [0xcc, 0xff, 0xfc, 0x2, 0x94, 0xfe,
    0x7d, 0x0, 0x80, 0x0, 0xb1, 0x2, 0x68, 0xff, 0x7d, 0x0, 0x36, 0x1, 0x66, 0x2, 0x3e, 0x0, 0x7d, 0x0, 0x36, 0x1,
    0x66, 0x2, 0x3e, 0x0, 0x7d, 0x0])] = true := by decide

/-- Vector TC20. -/
theorem test_cscR2Y : ran [0x4000021, 0x4000, 12, 0x5000, 8, 2] [(0x4000, [0xff, 0x3, 0x0, 0x0, 0x0, 0x0, 0x0, 0x0,
    0x0, 0x0, 0xff, 0x3])] 0x1 [] [(0x5000, [0x99, 0x1, 0xfa, 0x0, 0xc0, 0x3, 0x7f, 0x0])] = true := by decide

/-- Vector TC24. -/
theorem test_cscR2Y_full : ran [0x4800021, 0x4000, 12, 0x5000, 8, 2] [(0x4000, [0xac, 0x3, 0x40, 0x0, 0x40, 0x0, 0x40,
    0x0, 0x40, 0x0, 0xac, 0x3])] 0x1 [] [(0x5000, [0x99, 0x1, 0xfa, 0x0, 0xc0, 0x3, 0x7f, 0x0])] = true := by decide

/-- Vector TC33. -/
theorem test_cscRDepth : ran [0x18000022, 0x4000, 6, 0x5000, 6, 1] [(0x4000, [0xff, 0x3, 0x1, 0x0, 0x0, 0x0])] 0x1 []
    [(0x5000, [0xc0, 0xff, 0x40, 0x0, 0x0, 0x0])] = true := by decide

/-- Vector TC35. -/
theorem test_cscRDepth_wrap : ran [0x20000022, 0x4000, 6, 0x5000, 6, 1] [(0x4000, [0xff, 0xff, 0x0, 0x1, 0xff, 0x0])]
    0x1 [] [(0x5000, [0xff, 0x0, 0x1, 0x0, 0x0, 0x0])] = true := by decide

/-- Vector TV7. -/
theorem test_view_planar : ran [0xb30, 0x1000, 6, 0x2000, 256, 2, 2] [(0x1000, [0x10, 0x11, 0x12, 0x13, 0x80, 0x90])]
    0x1 [8] [(0x2000, [0x80, 0x0, 0x10, 0x0, 0x90, 0x0, 0x11, 0x0, 0x80, 0x0, 0x12, 0x0, 0x90, 0x0, 0x13, 0x0])] =
    true := by decide

/-- Vector TV5. -/
theorem test_view_packed : ran [0x730, 0x1000, 4, 0x2000, 256, 1, 1] [(0x1000, [0xff, 0xc0, 0x8, 0x3])] 0x1 [4]
    [(0x2000, [0xff, 0x3, 0x0, 0x0, 0x0, 0x2, 0x3, 0x0])] = true := by decide

/-- Vector TV32. -/
theorem test_cmpv_alpha : ran [0x631, 0x1000, 4, 0x2000, 4, 1, 1] [(0x1000, [0x3, 0x8, 0xc0, 0xff]), (0x2000, [0x0,
    0x8, 0xc0, 0xff])] 0x101 [] [] = true := by decide

/-- Vector TV33. -/
theorem test_cmpv_colour : ran [0x631, 0x1000, 4, 0x2000, 4, 1, 1] [(0x1000, [0x3, 0x8, 0xc0, 0xff]), (0x2000, [0x3,
    0x8, 0xc0, 0xfc])] 0x201 [] [] = true := by decide

/-- Vector TB0. -/
theorem test_blit : ran [0x340, 0x1000, 12, 3, 0x2000, 9, 2, 1, 1, 4, 4, 1] [(0x1000, [0x0, 0x1, 0x2, 0x3, 0x4, 0x5,
    0x6, 0x7, 0x8, 0x9, 0xa, 0xb, 0xc, 0xd, 0xe, 0xf, 0x10, 0x11, 0x12, 0x13, 0x14, 0x15, 0x16, 0x17, 0x18, 0x19,
    0x1a, 0x1b, 0x1c, 0x1d, 0x1e, 0x1f, 0x20, 0x21, 0x22, 0x23]), (0x2000, [0xee, 0xee, 0xee, 0xee, 0xee, 0xee, 0xee,
    0xee, 0xee, 0xee, 0xee, 0xee, 0xee, 0xee, 0xee, 0xee, 0xee, 0xee])] 0x1 [2, 2] [(0x2000, [0xee, 0xee, 0xee, 0xf,
    0x10, 0x11, 0x12, 0x13, 0x14, 0xee, 0xee, 0xee, 0x1b, 0x1c, 0x1d, 0x1e, 0x1f, 0x20])] = true := by decide

/-- Vector TB7. -/
theorem test_blit_clipped : ran [0x340, 0x1000, 6, 2, 0x2000, 6, 2, 0, 0, 0xffffffff, 0xffffffff] [(0x1000, [0x0, 0x1,
    0x2, 0x3, 0x4, 0x5, 0x6, 0x7, 0x8, 0x9, 0xa, 0xb]), (0x2000, [0xee, 0xee, 0xee, 0xee, 0xee, 0xee, 0xee, 0xee,
    0xee, 0xee, 0xee, 0xee])] 0x1 [2, 2] [(0x2000, [0x0, 0x1, 0x2, 0x3, 0x4, 0x5, 0x6, 0x7, 0x8, 0x9, 0xa, 0xb])] =
    true := by decide

/-- Vector TQ3. -/
theorem test_qsplit : ran [0xc0000041, 0x1000, 8, 4, 0x2000] [(0x1000, [0x0, 0x1, 0x2, 0x3, 0x4, 0x5, 0x6, 0x7, 0x8,
    0x9, 0xa, 0xb, 0xc, 0xd, 0xe, 0xf, 0x10, 0x11, 0x12, 0x13, 0x14, 0x15, 0x16, 0x17, 0x18, 0x19, 0x1a, 0x1b, 0x1c,
    0x1d, 0x1e, 0x1f]), (0x2000, [0xee, 0xee, 0xee, 0xee, 0xee, 0xee, 0xee, 0xee, 0xee, 0xee, 0xee, 0xee, 0xee, 0xee,
    0xee, 0xee])] 0x1 [] [(0x2000, [0x14, 0x15, 0x16, 0x17, 0x1c, 0x1d, 0x1e, 0x1f, 0xee])] = true := by decide

/-- Vector TQ9. -/
theorem test_qsplit_offset : ran [0xc0000041, 0x1000, 8, 4, 0x2000, 4] [(0x1000, [0x0, 0x1, 0x2, 0x3, 0x4, 0x5, 0x6,
    0x7, 0x8, 0x9, 0xa, 0xb, 0xc, 0xd, 0xe, 0xf, 0x10, 0x11, 0x12, 0x13, 0x14, 0x15, 0x16, 0x17, 0x18, 0x19, 0x1a,
    0x1b, 0x1c, 0x1d, 0x1e, 0x1f]), (0x2000, [0xee, 0xee, 0xee, 0xee, 0xee, 0xee, 0xee, 0xee, 0xee, 0xee, 0xee, 0xee,
    0xee, 0xee, 0xee, 0xee])] 0x1 [] [(0x2000, [0x10, 0x11, 0x12, 0x13, 0x18, 0x19, 0x1a, 0x1b, 0xee])] = true := by
    decide

/-- Vector TQ12. -/
theorem test_qmerge : ran [0x80000042, 0x1000, 8, 4, 0x2000] [(0x1000, [0xee, 0xee, 0xee, 0xee, 0xee, 0xee, 0xee,
    0xee, 0xee, 0xee, 0xee, 0xee, 0xee, 0xee, 0xee, 0xee, 0xee, 0xee, 0xee, 0xee, 0xee, 0xee, 0xee, 0xee, 0xee, 0xee,
    0xee, 0xee, 0xee, 0xee, 0xee, 0xee]), (0x2000, [0xa0, 0xa1, 0xa2, 0xa3, 0xa4, 0xa5, 0xa6, 0xa7])] 0x1 [] [(0x1000,
    [0xee, 0xee, 0xee, 0xee, 0xee, 0xee, 0xee, 0xee, 0xee, 0xee, 0xee, 0xee, 0xee, 0xee, 0xee, 0xee, 0xa0, 0xa1, 0xa2,
    0xa3, 0xee, 0xee, 0xee, 0xee, 0xa4, 0xa5, 0xa6, 0xa7, 0xee, 0xee, 0xee, 0xee])] = true := by decide

/-- Vector TQ15. -/
theorem test_qmerge_offset : ran [0xc0000042, 0x1000, 8, 4, 0x2000, 4] [(0x1000, [0xee, 0xee, 0xee, 0xee, 0xee, 0xee,
    0xee, 0xee, 0xee, 0xee, 0xee, 0xee, 0xee, 0xee, 0xee, 0xee, 0xee, 0xee, 0xee, 0xee, 0xee, 0xee, 0xee, 0xee, 0xee,
    0xee, 0xee, 0xee, 0xee, 0xee, 0xee, 0xee]), (0x2000, [0xa0, 0xa1, 0xa2, 0xa3, 0xa4, 0xa5, 0xa6, 0xa7])] 0x1 []
    [(0x1000, [0xee, 0xee, 0xee, 0xee, 0xee, 0xee, 0xee, 0xee, 0xee, 0xee, 0xee, 0xee, 0xee, 0xee, 0xee, 0xee, 0xa0,
    0xa1, 0xa2, 0xa3, 0xee, 0xee, 0xee, 0xee, 0xa4, 0xa5, 0xa6, 0xa7, 0xee, 0xee, 0xee, 0xee])] = true := by decide

/-- Vector TI10. -/
theorem test_illegal : ran [0x2, 1920, 1080, 0, 1] [] 0xf3 [] [] = true := by decide

/-! ## Every statement's hypotheses are met -/

/-- A line whose checks pass for all nine formats with a codec: sixteen pixels. -/
def line : LineArgs := ⟨0x1000, 96, 0x2000, 128, 16, some ⟨.y8p, false, ⟨16, 1, 0⟩⟩⟩

/-- The same with no descriptor. -/
def bare : LineArgs := { line with desc := none }

/-- Somewhere else. -/
def elsewhere : LineArgs := { bare with packedAddr := 0x3000, compAddr := 0x4000 }

/-- No memory behind the last 2^31 addresses. -/
def halfBacked : State := { State.reset with unbacked := [⟨0x80000000, 0x80000000⟩] }

/-- A state whose `CMD` spells `GEOM` of `Y10P`, and one whose `CMD` spells nothing. -/
def geomReady : State := { State.reset with cmd := words 1 0 0 0 0 0 0 0 0 0 }

theorem witness_EncodeThenDecode : WellFormed (.packY10P line) ∧ WellFormed (.geom (.unassigned 63)) := by decide

theorem witness_DecodeThenEncode : decode geomReady.cmd = .ok (.geom .y10p) := by decide

theorem witness_IllegalCommandsFail : legalCommand geomReady.cmd ∧ ¬ legalCommand State.reset.cmd := by decide

theorem witness_RegisterReads :
    ∀ n ∈ [0x48, 0x7C, 0xB0, 0xB4], n % 4 = 0 ∧ (0x48 ≤ n ∧ n ≤ 0x7C ∨ 0xB0 ≤ n) := by decide

theorem witness_RegisterWrites : (0xFFFFFFFE : Word) &&& 1 = 0 := by decide

theorem witness_GoRunsTheCommand :
    (0xFFFFFFFF : Word) &&& 1 = 1 ∧ (0xFFFFFFFE : Word) &&& 1 = 0 ∧ decode geomReady.cmd = .ok (.geom .y10p) ∧
      decode State.reset.cmd = .error .unknownOpcode := by decide

theorem witness_HostMemoryBytes :
    Memory.wf halfBacked.mem ∧ isBacked halfBacked ⟨0, 1⟩ ∧ isBacked halfBacked ⟨(0x7FFFFFFF : BitVec 32).toNat, 1⟩ := by
  decide

theorem witness_HostAccessStops :
    ¬ isBacked halfBacked ⟨(0x80000000 : BitVec 32).toNat, 1⟩ ∧ ¬ isBacked halfBacked ⟨(0xFFFFFFFF : BitVec 32).toNat, 1⟩ ∧
      0x41 % 4 ≠ 0 := by decide

/-- A `PACK.Y8P` in `CMD` whose first cell has these bytes. -/
def packReady (low high : Byte) : State :=
  { State.reset with cmd := encode (.packY8P bare), mem := memStore (memStore [] 0x2000 low) 0x2001 high }

/-- A cell of 0x100 breaks a `require` of `PACK.Y8P`, one of 0xFF does not, and `GEOM` has none. -/
theorem witness_breaksRequire :
    breaksRequire (.packY8P bare) (packReady 0 1) ∧ ¬ breaksRequire (.packY8P bare) (packReady 0xFF 0) ∧
      ¬ breaksRequire (.geom .y10p) (packReady 0 1) := by
  simp only [← effectOf_leavesUndefined]
  decide

theorem witness_StepRunsTheDecodedCommand :
    let s : State := { packReady 0 1 with pending := [.writeReg 0x40 3] }
    let r : State := { packReady 0 1 with pending := [.goThenReset] }
    let u : State := { geomReady with pending := [.reset] }
    (s.pending = [.writeReg 0x40 3] ∧ r.pending = [.goThenReset] ∧ u.pending = [.reset] ∧ (3 : Word) &&& 1 = 1) ∧
      (decode s.cmd = .ok (.packY8P bare) ∧ decode r.cmd = .ok (.packY8P bare) ∧ WellFormed (.packY8P bare)) ∧
      (HostAction.reset ≠ .goThenReset ∧ ∀ v, HostAction.reset ≠ .writeReg 0x40 v) ∧ State.reset.pending = [] :=
  ⟨by decide, by decide, ⟨by decide, nofun⟩, rfl⟩

/-- The word of `GEOM`, and the words of the `PACK` of `packReady`. -/
theorem witness_PlacedWordRuns :
    decodeTableWord 32 1 = some (.geom .y10p) ∧
      decodeTableWord 192 0x100000008000002000000000600000100000000211 = some (.packY8P bare) := by decide

theorem witness_StepKeepsInvariant : StateInv State.reset ∧ step State.reset = .next State.reset :=
  ⟨⟨by decide, by decide, by decide⟩, rfl⟩

theorem witness_FailureLeavesMemoryUnchanged :
    (∃ t, exec (.unpack13 line) State.reset = .next t ∧ failBit t.status = true) ∧
      ∃ t, exec (.cmpv .rgb12p false ⟨1, 1, 1, 1, ⟨1, 1, 0⟩⟩) State.reset = .next t ∧ failBit t.status = true ∧
        t.status = 0x313 := ⟨⟨_, rfl, by decide⟩, _, rfl, by decide, by decide⟩

theorem witness_StatusFields :
    (∃ t, exec (.geom .y8p) State.reset = .next t ∧ failBit t.status = false) ∧
      ∃ t, exec (.unpack13 line) State.reset = .next t ∧ failBit t.status = true :=
  ⟨⟨_, rfl, by decide⟩, _, rfl, by decide⟩

theorem witness_OperationsKeepCommand : ∃ t, exec (.geom .y8p) State.reset = .next t := ⟨_, rfl⟩

theorem witness_OutcomeIsAFunctionOfMemory :
    (State.reset.mem = geomReady.mem ∧ State.reset.params = geomReady.params ∧ State.reset.unbacked = geomReady.unbacked ∧
      State.reset.drawn = geomReady.drawn) ∧ (∃ t, exec (.geom .y8p) State.reset = .next t) ∧
      exec (.unpackRGB24 { bare with packedAddr := 0x80000000 }) halfBacked = .fault .unbackedMemory ∧
      exec (.unpackRGB24 { bare with packedAddr := 0x2000 }) halfBacked = .refused .overlappingBuffers :=
  ⟨by decide, ⟨_, rfl⟩, rfl, rfl⟩

/-- Each stop: by one common byte at either end of the range, and by one byte without memory. -/
theorem witness_OverlapAndUnbackedStop :
    (∀ p ∈ codecPairs, linePasses p.fmt p.gB p.gC p.gP { bare with compAddr := 0x1000 } ∧
      (compRange p.gC p.gP { bare with compAddr := 0x1000 }).overlaps (packedRange p.gB p.gP bare)) ∧
    (∀ p ∈ codecPairs, linePasses p.fmt p.gB p.gC p.gP { bare with packedAddr := 0x80000000 } ∧
      ¬ (compRange p.gC p.gP bare).overlaps (packedRange p.gB p.gP { bare with packedAddr := 0x80000000 }) ∧
      ¬ isBacked halfBacked (packedRange p.gB p.gP { bare with packedAddr := 0x80000000 })) ∧
    (cscPasses 2 8 12 ⟨0x1000, 8, 0x1007, 12, 2⟩ ∧ Range.overlaps ⟨0x1007, 12⟩ ⟨0x1000, 8⟩ ∧
      ¬ Range.overlaps ⟨0x1008, 12⟩ ⟨0x1000, 8⟩ ∧ ¬ isBacked halfBacked ⟨0x7FFFFFF5, 12⟩ ∧
      cscPasses 2 8 12 ⟨0x1000, 8, 0x7FFFFFF5, 12, 2⟩ ∧ cscPasses 2 12 8 ⟨0x1000, 12, 0x1007, 8, 2⟩ ∧
      cscPasses 1 6 6 ⟨0x1000, 6, 0x1005, 6, 1⟩) ∧
    QuadPasses ⟨0x1000, 4, 4, 0x100F, 0⟩ ∧ Range.overlaps ⟨0x100F, 4⟩ ⟨0x1000, 16⟩ ∧
    QuadPasses ⟨0x1000, 4, 4, 0x7FFFFFFD, 0⟩ ∧ ¬ isBacked halfBacked ⟨0x7FFFFFFD, 4⟩ := by
  refine ⟨by decide, by decide, by decide, ?_, by decide, ?_, by decide⟩ <;> constructor <;> decide

/-- The same for the reader and `BLIT`: a line of 8 bytes seen as 16, and a raster of 12 bytes copied whole, by one byte; and a
`BLIT` of no pixels. -/
theorem witness_OverlapAndUnbackedStop_rasters :
    let d := mkDesc .y8p ⟨4, 1, 0⟩ false
    let b : BlitArgs := ⟨0x1000, 3, 4, 0x100B, 3, 4, 0, 0, 1, 4, 0, 0⟩
    (isModelled .y8p ∧ viewGeometryPasses .y8p d ∧ d.totalBytes = 8 ∧ 2 * slotCount .y8p d = 16) ∧
      (Range.overlaps ⟨0x1007, 16⟩ ⟨0x1000, 8⟩ ∧ ¬ Range.overlaps ⟨0x1008, 16⟩ ⟨0x1000, 8⟩ ∧
        ¬ isBacked halfBacked ⟨0x7FFFFFF1, 16⟩ ∧ ¬ isBacked halfBacked ⟨0x7FFFFFF9, 8⟩) ∧
      granularity .rgb24 = some (3, 1) ∧ (b.srcX % 1 = 0 ∧ b.rectW % 1 = 0 ∧ b.dstX % 1 = 0) ∧
      (blitRowBytes 3 1 b ≠ 0 ∧ clipHeight b ≠ 0 ∧ clipHeight { b with rectH := 0 } = 0) ∧
      Range.overlaps ⟨b.dstAddr, 12⟩ ⟨b.srcAddr, 12⟩ ∧ ¬ isBacked halfBacked ⟨0x7FFFFFF5, 12⟩ := by decide

theorem witness_AbandonedOperation :
    Memory.wf geomReady.mem ∧ (∃ u, perform (.writeReg 0x40 1) geomReady = .next u) ∧
      ∃ t, perform .goThenReset geomReady = .next t := ⟨by decide, ⟨_, rfl⟩, _, rfl⟩

theorem witness_Desc :
    (∃ v ∈ descriptorFields (mkDesc .rgb48 ⟨0x40000000, 1, 0⟩ false), 2 ^ 32 ≤ v) ∧
      (∀ v ∈ descriptorFields (mkDesc .y8p ⟨0x7FFFFFFF, 1, 0⟩ false), v < 2 ^ 32) ∧
      ∃ v ∈ descriptorFields (mkDesc .y8p ⟨0x80000000, 1, 0⟩ false), v = 2 ^ 32 := by decide

theorem witness_PitchInvariant :
    let v : ViewArgs := ⟨1, 1, 1, 1, ⟨3, 2, 0⟩⟩
    v.aAddr ≠ 0 ∧ v.bAddr ≠ 0 ∧ v.size.width % 2 = 1 ∧ ∀ x ∈ descriptorFields (mkDesc .y8p v.size false), x < 2 ^ 32 := by
  decide

/-- The line codec's checks pass and its premises hold, in both directions, for all nine formats; and each check alone
fails. -/
theorem witness_line_passes :
    (∀ p ∈ codecPairs, linePasses p.fmt p.gB p.gC p.gP bare ∧ linePasses p.fmt p.gB p.gC p.gP elsewhere ∧
      premises State.reset (packedRange p.gB p.gP bare) (compRange p.gC p.gP bare) ∧
      premises State.reset (compRange p.gC p.gP bare) (packedRange p.gB p.gP bare) ∧
      premises State.reset (packedRange p.gB p.gP elsewhere) (compRange p.gC p.gP elsewhere) ∧ 0 < bare.pixelCount / p.gP ∧
      WellFormed (p.pack bare) ∧ WellFormed (p.unpack bare)) ∧
    linePasses .y8p 4 4 2 line := by
  refine ⟨fun p hp => ?_, by decide⟩
  fin_cases hp <;> refine ⟨?_, ?_, ?_, ?_, ?_, ?_, ?_, ?_⟩ <;> decide

theorem witness_line_fails :
    ¬ linePasses .y8p 4 4 2 { bare with packedAddr := 0 } ∧ ¬ linePasses .y8p 4 4 2 { bare with compAddr := 0 } ∧
    ¬ linePasses .y8p 4 4 2 { bare with pixelCount := 1 } ∧ linePasses .y8p 4 4 2 { bare with pixelCount := 2 } ∧
    ¬ linePasses .rgb24 3 3 1 line ∧ ¬ linePasses .y8p 4 4 2 { bare with desc := some ⟨.y8p, false, ⟨0, 1, 0⟩⟩ } ∧
    ¬ linePasses .y8p 4 4 2 { bare with packedLen := 31 } ∧ linePasses .y8p 4 4 2 { bare with packedLen := 32 } ∧
    ¬ linePasses .y8p 4 4 2 { bare with compLen := 63 } ∧ linePasses .y8p 4 4 2 { bare with compLen := 64 } ∧
    ¬ linePasses .y8p 4 4 2 { bare with packedAddr := 0xFFFFFFA1 } ∧
    linePasses .y8p 4 4 2 { bare with packedAddr := 0xFFFFFFA0 } := by
  refine ⟨?_, ?_, ?_, ?_, ?_, ?_, ?_, ?_, ?_, ?_, ?_, ?_⟩ <;> decide

/-- In memory that reads as zero every cell fits, and every word's bits 31:30 are zero. -/
theorem witness_cells_fit :
    (∀ p ∈ codecPairs, ∀ i < bare.pixelCount / p.gP * p.gC, compCell State.reset bare i ≤ p.maximum (i % p.gC)) ∧
      ∀ i < 4 * (bare.pixelCount / 6), memRead State.reset.mem (bare.packedAddr + 4 * i) 4 < 2 ^ 30 := by decide

theorem witness_RowsWithoutCodec :
    Instr.pack63 ∈ uncodedRows ∧ Instr.unpackRGB12P ∈ uncodedRows ∧ line.packedAddr ≠ 0 ∧ line.compAddr ≠ 0 := by
  simp [uncodedRows, line]

/-- `PACK` of a cell that does not fit still has its hypotheses met; the second run differs in the other group. -/
theorem witness_PackCompletesOnAnySamples :
    ∃ s : State, Memory.wf s.mem ∧ s.mem = [(0x2000, 0xFF), (0x2001, 0xFF)] ∧ s.params = State.reset.params ∧
      linePasses .y8p 4 4 2 bare ∧ premises s (compRange 4 2 bare) (packedRange 4 2 bare) ∧ compCell s bare 0 = 0xFFFF ∧
      (∃ v, exec (.packY8P bare) State.reset = .next v) ∧
      ∀ j < 4, compCell s bare (4 * 1 + j) ≤ 0xFF ∧ compCell State.reset bare (4 * 1 + j) = compCell s bare (4 * 1 + j) :=
  ⟨{ State.reset with mem := [(0x2000, 0xFF), (0x2001, 0xFF)] }, by decide, rfl, rfl, by decide, by decide, by decide,
    ⟨_, rfl⟩, by decide⟩

/-- 41_line_codec.md R172: the step refuses a `PACK.Y8P` of a cell of 0x100, and a reset that would abandon it, with nothing
done; with a cell of 0xFF it goes on. -/
theorem test_oversize_sample :
    step { packReady 0 1 with pending := [goWrite] } = .refused .oversizeSample ∧
      step { packReady 0 1 with pending := [.goThenReset] } = .refused .oversizeSample ∧
      ∃ u, step { packReady 0xFF 0 with pending := [goWrite] } = .next u := ⟨rfl, rfl, _, rfl⟩

/-- The converter's three checks: met at their bounds, and each missed by one; three RGB cells a pixel. -/
theorem witness_converter :
    let b : LinePair := ⟨0x4000, 16, 0x5000, 24, 4⟩
    (b.srcAddr ≠ 0 ∧ b.dstAddr ≠ 0) ∧ cscPasses 2 16 24 b ∧ cscPasses 1 16 24 b ∧
      premises State.reset ⟨b.srcAddr, 16⟩ ⟨b.dstAddr, 24⟩ ∧ ¬ cscPasses 2 16 24 { b with pixelCount := 1 } ∧
      ¬ cscPasses 2 16 24 { b with srcLen := 15 } ∧ ¬ cscPasses 2 16 24 { b with dstLen := 23 } ∧
      ¬ cscPasses 2 16 24 { b with srcAddr := 0xFFFFFFF1 } ∧ ¬ cscPasses 1 16 24 { b with pixelCount := 0 } ∧
      1 < b.pixelCount / 2 ∧ { b with srcAddr := 0 }.srcAddr = 0 := by decide

theorem witness_DefaultKernelFits : (0 : Int) ≤ 65535 ∧ (65535 : Int) < 65536 := by decide

/-- One line of four pixels of 8-bit 4:2:2. -/
def view : ViewArgs := ⟨0x1000, 8, 0x2000, 16, ⟨4, 1, 0⟩⟩

theorem witness_ViewWritesTheSlots : ViewReady .y8p (mkDesc .y8p view.size false) view State.reset ∧
    0 < elementsPerLine .y8p (mkDesc .y8p view.size false) ∧ Memory.wf State.reset.mem := by
  refine ⟨?_, by decide, by decide⟩
  constructor <;> decide

/-- Each check of the reader alone fails where the others pass, at its bound. -/
theorem witness_ReaderChecks :
    let d := mkDesc .y8p view.size false
    (view.aAddr ≠ 0 ∧ view.bAddr ≠ 0) ∧ ¬ isModelled .rgb12p ∧ isModelled .y8p ∧ viewGeometryPasses .y8p d ∧
      ¬ viewGeometryPasses .y8p (mkDesc .y8p ⟨3, 1, 0⟩ false) ∧ ¬ viewGeometryPasses .y8p (mkDesc .y8p ⟨0, 1, 0⟩ false) ∧
      ¬ d.totalBytes ≤ 7 ∧ d.totalBytes ≤ view.aLen ∧ ¬ 2 * slotCount .y8p d ≤ 15 ∧ 2 * slotCount .y8p d ≤ view.bLen ∧
      ¬ 0xFFFFFFF9 + 8 ≤ 2 ^ 32 ∧ 0xFFFFFFF8 + 8 ≤ 2 ^ 32 := by decide

theorem witness_PackedSlots :
    (∀ j ∈ [0, 3], j < 4) ∧ (∀ j ∈ [0, 2], j < 3) ∧ ∀ j ∈ [0, 11], j < 12 := by decide

/-- Ready for `CMPV`, one line of two pixels; with equal buffers and with buffers that differ in one slot. -/
def pair : ViewArgs := ⟨0x1000, 64, 0x2000, 64, ⟨2, 1, 0⟩⟩

theorem witness_CompareViews :
    ∀ fmt ∈ [PixelFormat.y8p, .rgb10p, .rgb10pBE, .rgb48], CompareReady fmt (mkDesc fmt pair.size false) pair State.reset ∧
      viewsEqual State.reset.params fmt (mkDesc fmt pair.size false) State.reset.mem 0x1000 0x2000 = true ∧
      viewsEqual State.reset.params fmt (mkDesc fmt pair.size false) [(0x1001, 0x10)] 0x1000 0x2000 = false := by
  intro fmt h
  simp only [List.mem_cons, List.not_mem_nil, or_false] at h
  rcases h with rfl | rfl | rfl | rfl <;> exact ⟨by constructor <;> decide, by decide, by decide⟩

theorem witness_CompareIsByteEquality :
    let v : ViewArgs := ⟨0x1000, 128, 0x2000, 128, ⟨2, 2, 0⟩⟩
    ∀ fmt ∈ [PixelFormat.y8p, .rgb24, .rgba32, .rgb48, .y8_422pl3, .y8_420pl3],
      CompareReady fmt (mkDesc fmt v.size false) v State.reset := by
  intro v fmt h
  simp only [List.mem_cons, List.not_mem_nil, or_false] at h
  rcases h with rfl | rfl | rfl | rfl | rfl | rfl <;> constructor <;> decide

theorem witness_CompareIsByteEquality_tenBit :
    ∀ fmt ∈ [PixelFormat.y10p, .y10pBE],
      CompareReady fmt (mkDesc fmt ⟨1, 1, 0⟩ false) ⟨0x1000, 128, 0x2000, 128, ⟨1, 1, 0⟩⟩ State.reset := by
  intro fmt h
  simp only [List.mem_cons, List.not_mem_nil, or_false] at h
  rcases h with rfl | rfl <;> constructor <;> decide

/-- Lines of 30 bytes of which 20 are compared: two buffers that agree there and one that does not. -/
theorem witness_CompareTwoPlaneIsByteEquality :
    let v : ViewArgs := ⟨0x1000, 90, 0x2000, 90, ⟨24, 2, 0⟩⟩
    let outside : State := { State.reset with mem := [(0x1014, 1)] }
    let inside : State := { State.reset with mem := [(0x104F, 1)] }
    (CompareReady .y10_420pl2 (mkDesc .y10_420pl2 v.size false) v outside ∧
      CompareReady .y10_420pl2 (mkDesc .y10_420pl2 v.size false) v inside) ∧
    memByte outside.mem (v.aAddr + 20) ≠ memByte outside.mem (v.bAddr + 20) ∧
    memByte inside.mem (v.aAddr + 30 * 2 + 0 * 30 + 19) ≠ memByte inside.mem (v.bAddr + 30 * 2 + 0 * 30 + 19) := by
  refine ⟨⟨?_, ?_⟩, by decide, by decide⟩ <;> constructor <;> decide

theorem witness_CompareIsReflexive :
    CompareReady .y10_420pl2 (mkDesc .y10_420pl2 ⟨16, 2, 0⟩ false) ⟨0x1000, 60, 0x1000, 60, ⟨16, 2, 0⟩⟩ State.reset := by
  constructor <;> decide

/-- A `BLIT` of one pixel of `RGB24` within, and one clipped to nothing. -/
def copyOne : BlitArgs := ⟨0x1000, 6, 2, 0x2000, 6, 2, 1, 1, 1, 1, 0, 0⟩

theorem witness_BlitCopies :
    granularity .rgb24 = some (3, 1) ∧ BlitReady 1 copyOne State.reset ∧ BlitReady 1 { copyOne with srcX := 9 } State.reset ∧
      Memory.wf State.reset.mem ∧ clipWidth 3 1 copyOne = 1 ∧ clipHeight copyOne = 1 ∧
      clipWidth 3 1 { copyOne with srcX := 9 } = 0 := by
  refine ⟨by decide, ?_, ?_, by decide, by decide, by decide, by decide⟩ <;> constructor <;> decide

theorem witness_BlitStaysInside :
    ∃ t, exec (.blit .rgb24 copyOne) { State.reset with mem := [(0x1009, 7)] } = .next t ∧ memByte t.mem 0x2000 ≠ 0 :=
  ⟨_, rfl, by decide⟩

/-- Each check of `BLIT` alone fails where the others pass, at its bound. -/
theorem witness_BlitChecks :
    granularity .compressed = none ∧ granularity .y8p = some (4, 2) ∧
    (∀ b ∈ [copyOne, { copyOne with srcAddr := 0xFFFFFFF4 }], b.srcAddr ≠ 0 ∧ b.dstAddr ≠ 0 ∧ b.srcAddr ≠ b.dstAddr ∧
      (b.srcPitch ≠ 0 ∧ b.dstPitch ≠ 0 ∧ b.srcHeight ≠ 0 ∧ b.dstHeight ≠ 0) ∧
      (b.srcX % 1 = 0 ∧ b.rectW % 1 = 0 ∧ b.dstX % 1 = 0)) ∧
    0xFFFFFFF4 + copyOne.srcPitch * copyOne.srcHeight ≤ 2 ^ 32 ∧ ¬ 0xFFFFFFF5 + copyOne.srcPitch * copyOne.srcHeight ≤ 2 ^ 32 ∧
    copyOne.rectW % 2 ≠ 0 := by decide

/-- A full raster of 8 bytes by 4 lines and its quadrant image. -/
def quads : QuadArgs := ⟨0x1000, 8, 4, 0x2000, 4⟩

theorem witness_Quadrants :
    QuadReady quads State.reset ⟨0x1000, 32⟩ ⟨0x2000, 8⟩ ∧ QuadReady quads State.reset ⟨0x2000, 8⟩ ⟨0x1000, 32⟩ ∧
      QuadReady { quads with quadAddr := 0x3000 } State.reset ⟨0x1000, 32⟩ ⟨0x3000, 8⟩ ∧ Memory.wf State.reset.mem := by
  refine ⟨⟨?_, by decide⟩, ⟨?_, by decide⟩, ⟨?_, by decide⟩, by decide⟩ <;> constructor <;> decide

/-- Each check of a quadrant operation alone fails, at its bound. -/
theorem witness_QuadChecks :
    (quads.fullAddr ≠ 0 ∧ quads.quadAddr ≠ 0) ∧ quads.quad13Offset ≤ quads.fullPitch / 2 ∧ ¬ 5 ≤ quads.fullPitch / 2 ∧
      7 % 2 ≠ 0 ∧ 0xFFFFFFE0 + quads.fullPitch * quads.fullHeight ≤ 2 ^ 32 ∧
      ¬ 0xFFFFFFE1 + quads.fullPitch * quads.fullHeight ≤ 2 ^ 32 := by decide

end Sys2Proof.Tests
end

section
/-! ## The register window

What lies at each offset of the window (10_state.md R20), and what a host's read and write of a whole word come to. -/

namespace Sys2Proof.Machine

theorem windowReg_cmd (i : Fin 16) : windowReg ((0x00 + 4 * i.val) / 4) = .cmd i := by
  have hi : (0x00 + 4 * i.val) / 4 = i.val := by omega
  rw [hi, windowReg, dif_pos i.isLt]

/-- The words of a block of registers that begins at a whole word lie at whole words. -/
theorem wholeWord_slot {base : Nat} (h : base % 4 = 0) (i : Nat) : wholeWord (base + 4 * i) := by
  unfold wholeWord
  omega

theorem windowReg_ctrl : windowReg (0x40 / 4) = .ctrl := rfl

theorem windowReg_status : windowReg (0x44 / 4) = .status := rfl

theorem windowReg_res (i : Fin 12) : windowReg ((0x80 + 4 * i.val) / 4) = .res i := by
  have hi : (0x80 + 4 * i.val) / 4 = 0x20 + i.val := by omega
  rw [hi, windowReg, dif_neg (by omega), if_neg (by omega), if_neg (by omega), dif_pos (by omega)]
  simp

theorem windowReg_reserved {n : Nat} (h : 0x48 ≤ n ∧ n ≤ 0x7C ∨ 0xB0 ≤ n) : windowReg (n / 4) = .reserved := by
  rw [windowReg, dif_neg (by omega), if_neg (by omega), if_neg (by omega), dif_neg (by omega)]

theorem perform_readReg {n : Nat} (hw : wholeWord n) {r : WindowReg} (hr : windowReg (n / 4) = r) (s : State) :
    perform (.readReg n) s = .next (observe s (regValue s r)) := by
  rw [perform, if_pos hw, hr]

theorem perform_writeReg {n : Nat} (hw : wholeWord n) {r : WindowReg} (hr : windowReg (n / 4) = r) (s : State) (v : Word) :
    perform (.writeReg n v) s = writeRegister s r v := by
  rw [perform, if_pos hw, hr]

/-- `CTRL` stores nothing, so that it reads as 0 in every state (10_state.md R23). -/
theorem perform_readReg_ctrl (s : State) : perform (.readReg 0x40) s = .next { s with seen := s.seen ++ [0] } :=
  perform_readReg (by decide) windowReg_ctrl s

theorem perform_writeReg_cmd (s : State) (i : Fin 16) (v : Word) :
    perform (.writeReg (0x00 + 4 * i.val) v) s = .next { s with cmd := s.cmd.set i v } :=
  perform_writeReg (wholeWord_slot rfl i) (windowReg_cmd i) s v

/-! ### `CTRL` -/

theorem perform_writeReg_go (s : State) {v : Word} (hv : v &&& 1 = 1) : perform (.writeReg 0x40 v) s = runCommand s := by
  rw [perform_writeReg (by decide) windowReg_ctrl, writeRegister, if_pos ((goBit_iff v).2 hv)]

theorem perform_writeReg_noGo (s : State) {v : Word} (hv : v &&& 1 = 0) : perform (.writeReg 0x40 v) s = .next s := by
  have hgo : ¬ goBit v = true := by
    rw [goBit_iff, hv]
    decide
  rw [perform_writeReg (by decide) windowReg_ctrl, writeRegister, if_neg hgo]

theorem runCommand_of_ok {s : State} {i : Instr} (h : decode s.cmd = .ok i) : runCommand s = exec i s := by
  rw [runCommand, h]

theorem runCommand_of_error {s : State} {e : DecodeError} (h : decode s.cmd = .error e) :
    runCommand s = .next (failedWith s 15) := by
  rw [runCommand, h]
  exact congrArg Host.Outcome.next (raiseFail_eq .illegalCommand s)

/-- Sixteen zero words spell nothing: there is no opcode 0 (30_encoding.md R90). -/
theorem decode_zero : decode (.replicate 16 0) = .error .unknownOpcode := by decide

/-! ### The obligations about the window -/

/-- Settles O14: every register is zero and no byte is listed. -/
theorem resetMeetsInvariant : Obligations.ResetMeetsInvariant where
  memory := by decide
  status := by decide
  results := by decide

/-- Settles O6: each offset is one register, and reading it observes that register's value. -/
theorem registerReads : Obligations.RegisterReads := by
  intro s
  refine ⟨fun i => ?_, perform_readReg_ctrl s, ?_, fun i => ?_, fun n hw hn => ?_⟩
  · exact perform_readReg (wholeWord_slot rfl i) (windowReg_cmd i) s
  · exact perform_readReg (by decide) windowReg_status s
  · exact perform_readReg (wholeWord_slot rfl i) (windowReg_res i) s
  · exact perform_readReg hw (windowReg_reserved hn) s

/-- Settles O7: of the registers other than `CTRL`, only `CMD` takes what is written. -/
theorem registerWrites : Obligations.RegisterWrites := by
  intro s v
  refine ⟨fun i => ⟨_, perform_writeReg_cmd s i v, rfl, ?_, fun j hj => ?_⟩, perform_writeReg_noGo s, ?_, fun i => ?_,
    fun n hw hn => ?_⟩
  · exact Vector.getElem_set_self i.isLt
  · exact Vector.getElem_set_ne i.isLt j.isLt fun h => hj (Fin.ext h.symm)
  · exact perform_writeReg (by decide) windowReg_status s v
  · exact perform_writeReg (wholeWord_slot rfl i) (windowReg_res i) s v
  · exact perform_writeReg hw (windowReg_reserved hn) s v

/-- Settles O8: a `GO` write is `runCommand`, by whether `CMD` decodes. -/
theorem goRunsTheCommand : Obligations.GoRunsTheCommand := by
  intro s v
  refine ⟨fun hv => ⟨fun i hi => ?_, fun e he => ?_⟩, perform_writeReg_noGo s, perform_readReg_ctrl s⟩
  · rw [perform_writeReg_go s hv, runCommand_of_ok hi]
  · rw [perform_writeReg_go s hv, runCommand_of_error he]

/-- After reset `CMD` spells nothing, so that a `GO` write fails; `RES` is zero already (10_state.md R29). -/
theorem perform_go_after_reset (s : State) :
    perform (.writeReg 0x40 1) (resetRegisters s) = .next { resetRegisters s with status := 0x0F3 } := by
  rw [perform_writeReg_go _ (by decide), runCommand_of_error (by rw [resetRegisters_cmd, decode_zero])]
  rfl

/-- Settles O5: reset zeroes the registers of any state, and those of `State.reset` are zero. -/
theorem reset : Obligations.Reset := by
  refine ⟨fun s => ⟨resetRegisters s, rfl, ⟨fun i => ?_, resetRegisters_status s, fun i => ?_⟩, perform_readReg_ctrl _,
    ⟨resetRegisters_mem s, resetRegisters_params s⟩, perform_go_after_reset s⟩, fun i => ?_, rfl, fun i => ?_⟩
  · rw [resetRegisters_cmd]
    exact Vector.getElem_replicate i.isLt
  · rw [resetRegisters_res]
    exact Vector.getElem_replicate i.isLt
  · exact Vector.getElem_replicate i.isLt
  · exact Vector.getElem_replicate i.isLt

end Sys2Proof.Machine
end

section
/-! ## What an operation leaves in the registers

The fields of `STATUS` (10_state.md R24, 60_exceptions.md R280, R281) and what no operation writes (10_state.md R21), from
the two ways in which completing an effect answers a next state. -/

namespace Sys2Proof.Machine

/-! ### The fields of a `STATUS` made from its fields -/

theorem comparisonCode_lt (c : Comparison) : comparisonCode c < 4 := by cases c <;> decide

theorem failNumber_mem (code : FailCode) : failNumber code ∈ [1, 2, 3, 4, 15] := by cases code <;> decide

theorem failNumber_lt (code : FailCode) : failNumber code < 16 := by cases code <;> decide

section
variable (done fail : Bool) {err : Nat} (cmp : Comparison) (valid : Bool)

/-- No field of `STATUS` carries into the next. -/
theorem toNat_statusWord (herr : err < 16) :
    (statusWord done fail err cmp valid).toNat =
      done.toNat + 2 * fail.toNat + 16 * err + 256 * comparisonCode cmp + 1024 * valid.toNat := by
  have hdone := done.toNat_lt
  have hfail := fail.toNat_lt
  have hcmp := comparisonCode_lt cmp
  have hvalid := valid.toNat_lt
  rw [statusWord, BitVec.toNat_ofNat]
  omega

theorem field_statusWord (herr : err < 16) (hi lo : Nat) :
    field (statusWord done fail err cmp valid) hi lo =
      (done.toNat + 2 * fail.toNat + 16 * err + 256 * comparisonCode cmp + 1024 * valid.toNat) / 2 ^ lo %
        2 ^ (hi + 1 - lo) := by
  rw [field, toNat_statusWord _ _ _ _ herr]

theorem doneBit_statusWord (herr : err < 16) : doneBit (statusWord done fail err cmp valid) = done := by
  rw [doneBit, flag, field_statusWord _ _ _ _ herr]
  cases done <;> simp <;> omega

theorem failBit_statusWord (herr : err < 16) : failBit (statusWord done fail err cmp valid) = fail := by
  have hdone := done.toNat_lt
  rw [failBit, flag, field_statusWord _ _ _ _ herr]
  cases fail <;> simp <;> omega

theorem errField_statusWord (herr : err < 16) : errField (statusWord done fail err cmp valid) = err := by
  have hdone := done.toNat_lt
  have hfail := fail.toNat_lt
  rw [errField, field_statusWord _ _ _ _ herr]
  omega

theorem cmpField_statusWord (herr : err < 16) :
    cmpField (statusWord done fail err cmp valid) = comparisonCode cmp := by
  have hdone := done.toNat_lt
  have hfail := fail.toNat_lt
  have hcmp := comparisonCode_lt cmp
  rw [cmpField, field_statusWord _ _ _ _ herr]
  omega

theorem validBit_statusWord (herr : err < 16) : validBit (statusWord done fail err cmp valid) = valid := by
  have hdone := done.toNat_lt
  have hfail := fail.toNat_lt
  have hcmp := comparisonCode_lt cmp
  rw [validBit, flag, field_statusWord _ _ _ _ herr]
  cases valid <;> simp <;> omega

theorem reserved_statusWord (herr : err < 16) :
    field (statusWord done fail err cmp valid) 3 2 = 0 ∧ field (statusWord done fail err cmp valid) 31 11 = 0 := by
  have hdone := done.toNat_lt
  have hfail := fail.toNat_lt
  have hcmp := comparisonCode_lt cmp
  have hvalid := valid.toNat_lt
  rw [field_statusWord _ _ _ _ herr, field_statusWord _ _ _ _ herr]
  omega

end

/-! ### `STATUS` at the end of an operation -/

/-- The fields of `STATUS` after an operation: `CMP` is zero unless the operation `compares`, `VALID` unless it
`describes`. -/
structure FinalStatus (compares describes : Prop) (status : Word) : Prop where
  done : doneBit status = true
  reserved : field status 3 2 = 0 ∧ field status 31 11 = 0
  success : failBit status = false → errField status = 0
  failure : failBit status = true → errField status ∈ [1, 2, 3, 4, 15]
  cmp : ¬ compares → cmpField status = 0
  valid : ¬ describes → validBit status = false

section
variable {compares describes : Prop}

theorem finalStatus_success {cmp : Comparison} {valid : Bool} (hc : ¬ compares → cmp = .notMade)
    (hv : ¬ describes → valid = false) : FinalStatus compares describes (statusWord true false 0 cmp valid) where
  done := doneBit_statusWord _ _ _ _ (by decide)
  reserved := reserved_statusWord _ _ _ _ (by decide)
  success _ := errField_statusWord _ _ _ _ (by decide)
  failure h := by
    rw [failBit_statusWord _ _ _ _ (by decide)] at h
    cases h
  cmp h := by rw [cmpField_statusWord _ _ _ _ (by decide), hc h, comparisonCode]
  valid h := by rw [validBit_statusWord _ _ _ _ (by decide), hv h]

theorem finalStatus_failed {code : FailCode} {cmp : Comparison} (hc : ¬ compares → cmp = .notMade) :
    FinalStatus compares describes (statusFailed code cmp) where
  done := doneBit_statusWord _ _ _ _ (failNumber_lt code)
  reserved := reserved_statusWord _ _ _ _ (failNumber_lt code)
  success h := by
    rw [statusFailed, failBit_statusWord _ _ _ _ (failNumber_lt code)] at h
    cases h
  failure _ := by
    rw [statusFailed, errField_statusWord _ _ _ _ (failNumber_lt code)]
    exact failNumber_mem code
  cmp h := by rw [statusFailed, cmpField_statusWord _ _ _ _ (failNumber_lt code), hc h, comparisonCode]
  valid _ := validBit_statusWord _ _ _ _ (failNumber_lt code)

/-- Plain success, which every operation may end with. -/
theorem finalStatus_done : FinalStatus compares describes 0x001 :=
  statusDone_eq ▸ finalStatus_success (fun _ => rfl) fun _ => rfl

theorem finalStatus_described (h : describes) : FinalStatus compares describes 0x401 := by
  have hw : 0x401 = statusDescribed true := (statusDescribed_eq true).symm
  rw [hw]
  exact finalStatus_success (fun _ => rfl) fun hn => absurd h hn

theorem finalStatus_equal (h : compares) : FinalStatus compares describes 0x101 := by
  have hw : 0x101 = statusCompared true := (statusCompared_eq true).symm
  rw [hw]
  exact finalStatus_success (fun hn => absurd h hn) fun _ => rfl

theorem finalStatus_notEqual (h : compares) : FinalStatus compares describes 0x201 := by
  have hw : 0x201 = statusCompared false := (statusCompared_eq false).symm
  rw [hw]
  exact finalStatus_success (fun hn => absurd h hn) fun _ => rfl

/-- A sound effect that answers a next state ends with one of its statuses or with a failure's. -/
theorem Effect.Sound.finalStatus {statuses : List Word} {unsupported : Prop} {s t : State} {e : Effect}
    (h : e.Sound statuses unsupported s) (hu : unsupported → compares)
    (hs : ∀ status ∈ statuses, FinalStatus compares describes status) (ht : complete e s = .next t) :
    FinalStatus compares describes t.status := by
  rcases complete_next.1 ht with ⟨status, res, runs, draws, rfl, rfl⟩ | ⟨code, cmp, rfl, rfl⟩
  · obtain ⟨hmem, -⟩ := h
    exact hs status hmem
  · obtain ⟨-, hcmp⟩ := h
    refine finalStatus_failed fun hn => ?_
    rcases hcmp with hc | ⟨-, -, hyes⟩
    · exact hc
    · exact absurd (hu hyes) hn

end

/-- Every operation's `STATUS`: only `CMPV` may set `CMP`, only `DESC` may set `VALID`. -/
theorem exec_finalStatus {i : Instr} {s t : State} (h : exec i s = .next t) :
    FinalStatus (∃ fmt vm v, i = .cmpv fmt vm v) (∃ fmt vm r, i = .desc fmt vm r) t.status := by
  rw [exec_eq_complete] at h
  rcases effectOf_sound i s with ⟨fmt, vm, r, rfl, hs⟩ | ⟨fmt, vm, v, rfl, hs⟩ | ⟨-, -, hs⟩
  · exact hs.finalStatus False.elim (List.forall_mem_cons.2
      ⟨finalStatus_done, List.forall_mem_singleton.2 (finalStatus_described ⟨_, _, _, rfl⟩)⟩) h
  · have hcompares : ∃ fmt' vm' v', Instr.cmpv fmt vm v = .cmpv fmt' vm' v' := ⟨_, _, _, rfl⟩
    exact hs.finalStatus (fun _ => hcompares) (List.forall_mem_cons.2
      ⟨finalStatus_equal hcompares, List.forall_mem_singleton.2 (finalStatus_notEqual hcompares)⟩) h
  · exact hs.finalStatus False.elim (List.forall_mem_singleton.2 finalStatus_done) h

/-- Settles O16: the fields of `FinalStatus`, which every operation's `STATUS` has. -/
theorem statusFields : Obligations.StatusFields := by
  intro i s t h
  have hf := exec_finalStatus h
  obtain ⟨hlow, hhigh⟩ := hf.reserved
  refine ⟨hf.done, hlow, hhigh, hf.success, hf.failure, fun hi => hf.cmp ?_, fun hi => hf.valid ?_⟩
  · rintro ⟨fmt, vm, v, rfl⟩
    exact hi fmt vm v rfl
  · rintro ⟨fmt, vm, r, rfl⟩
    exact hi fmt vm r rfl

/-! ### What no operation writes -/

/-- Neither of the two ends of an operation, success and failure, writes `CMD` or what only the host or the platform has. -/
theorem complete_keeps {e : Effect} {s t : State} (h : complete e s = .next t) :
    t.cmd = s.cmd ∧ t.params = s.params ∧ t.unbacked = s.unbacked ∧ t.pending = s.pending ∧ t.seen = s.seen := by
  rcases complete_next.1 h with ⟨status, res, runs, draws, -, rfl⟩ | ⟨code, cmp, -, rfl⟩
  · exact ⟨rfl, rfl, rfl, rfl, rfl⟩
  · simp

/-- Settles O17: an operation is the completion of its effect. -/
theorem operationsKeepCommand : Obligations.OperationsKeepCommand := by
  intro i s t h
  rw [exec_eq_complete] at h
  exact complete_keeps h

end Sys2Proof.Machine
end

section
/-! ## What an operation reads

Of the state, an operation reads memory, the parameters and two fields of the model's own (10_state.md R28, logs 7 and 10):
two states that agree on these give one command the same effect. -/

namespace Sys2Proof.Machine

/-- Two states agree on all that an operation reads. -/
structure SameInputs (s u : State) : Prop where
  mem : s.mem = u.mem
  params : s.params = u.params
  unbacked : s.unbacked = u.unbacked
  drawn : s.drawn = u.drawn

section
variable {s u : State}

theorem guarded_congr (h : SameInputs s u) (reads writes : List Range) (e : Effect) :
    guarded s reads writes e = guarded u reads writes e := by
  simp only [guarded, touchesUnbacked, h.unbacked]

theorem unpackEffect_congr (h : SameInputs s u) (fmt : PixelFormat) (group : Memory → Nat → List Nat) (a : LineArgs) :
    unpackEffect fmt group a s = unpackEffect fmt group a u := by
  simp only [unpackEffect, guarded_congr h, h.mem]

theorem packedGroup_congr (h : SameInputs s u) (fmt : PixelFormat) (pack : List Nat → Option (List Byte)) (a : LineArgs) :
    packedGroup fmt pack a s = packedGroup fmt pack a u := by
  funext k
  simp only [packedGroup, h.mem, h.drawn]

theorem packEffect_congr (h : SameInputs s u) (fmt : PixelFormat) (pack : List Nat → Option (List Byte)) (a : LineArgs) :
    packEffect fmt pack a s = packEffect fmt pack a u := by
  simp only [packEffect, guarded_congr h, packedGroup_congr h, h.mem]

theorem cscEffect_congr (h : SameInputs s u) (minPixels nIn nOut : Nat) (b : LinePair) (cells : List Nat) :
    cscEffect minPixels nIn nOut b cells s = cscEffect minPixels nIn nOut b cells u := by
  simp only [cscEffect, guarded_congr h]

/-- A command's effect is a function of what `SameInputs` names. -/
theorem effectOf_congr (h : SameInputs s u) (i : Instr) : effectOf i s = effectOf i u := by
  cases i
  case unpackY10P | unpackY10P_BE | unpackY8P | unpackRGB24 | unpackRGBA32 | unpackRGB48 | unpackRGB10P
      | unpackRGB10P_BE => exact unpackEffect_congr h _ _ _
  case unpackY10_420_PL2 a =>
    simp only [effectOf, effectUnpackY10_420_PL2, unpackEffect_congr h, h.params]
  case packY10P | packY10P_BE | packY8P | packRGB24 | packRGBA32 | packRGB48 | packRGB10P | packRGB10P_BE =>
    exact packEffect_congr h _ _ _
  case packY10_420_PL2 a =>
    simp only [effectOf, effectPackY10_420_PL2, packEffect_congr h, h.params]
  case cscY2R => simp only [effectOf, effectCscY2R, cscEffect_congr h, h.mem, h.params]
  case cscR2Y => simp only [effectOf, effectCscR2Y, cscEffect_congr h, h.mem, h.params]
  case cscRDepth => simp only [effectOf, effectCscRDepth, cscEffect_congr h, h.mem]
  case view => simp only [effectOf, effectView, guarded_congr h, h.mem, h.params]
  case cmpv => simp only [effectOf, effectCmpv, guarded_congr h, h.mem, h.params]
  case blit => simp only [effectOf, effectBlit, guarded_congr h, h.mem]
  case qsplit => simp only [effectOf, effectQsplit, guarded_congr h, h.mem]
  case qmerge => simp only [effectOf, effectQmerge, guarded_congr h, h.mem]
  all_goals rfl

theorem breaksRequire_congr (h : SameInputs s u) (i : Instr) : breaksRequire i s ↔ breaksRequire i u := by
  rw [← effectOf_leavesUndefined, ← effectOf_leavesUndefined, effectOf_congr h]

/-- One effect, completed in two states with the same memory, ends alike in both. -/
theorem complete_next_of_same_mem (hm : s.mem = u.mem) {e : Effect} {t : State} (h : complete e s = .next t) :
    ∃ w, complete e u = .next w ∧ w.status = t.status ∧ w.res = t.res ∧ w.mem = t.mem := by
  rcases complete_next.1 h with ⟨status, res, runs, draws, rfl, rfl⟩ | ⟨code, cmp, rfl, rfl⟩
  · exact ⟨succeed status res runs draws u, rfl, rfl, rfl, by simp [hm]⟩
  · exact ⟨raiseFail code cmp u, rfl, rfl, rfl, by simp [hm]⟩

end

/-- Settles O18: the two runs complete one effect. -/
theorem outcomeIsAFunctionOfMemory : Obligations.OutcomeIsAFunctionOfMemory := by
  intro i s u hmem hparams hunbacked hdrawn
  have heffect : effectOf i s = effectOf i u := effectOf_congr ⟨hmem, hparams, hunbacked, hdrawn⟩ i
  simp only [exec_eq_complete, heffect]
  refine ⟨fun t h => complete_next_of_same_mem hmem h, fun f h => ?_, fun r h => ?_⟩
  · exact complete_fault.2 (complete_fault.1 h)
  · exact complete_refused.2 (complete_refused.1 h)

end Sys2Proof.Machine
end

section
/-! ## The step of a `GO` write

A placed instruction is run by the very next step (log 2), but where it is a `PACK` that breaks a `require` (41_line_codec.md
R172, log 5). -/

namespace Sys2Proof.Machine

section
variable {s : State} {action : HostAction} {rest : List HostAction}

theorem step_of_startsUndefined (hp : s.pending = action :: rest) (h : startsUndefined action s = true) :
    step s = .refused .oversizeSample := by
  rw [step, nextAction, hp]
  exact if_pos h

theorem step_of_not_startsUndefined (hp : s.pending = action :: rest) (h : ¬ startsUndefined action s = true) :
    step s = perform action { s with pending := rest } := by
  rw [step, nextAction, hp]
  exact if_neg h

variable {v : Word} {i : Instr}

/-- A `GO` write starts something undefined exactly where the command in `CMD` breaks a `require`. -/
theorem startsUndefined_go_iff (hv : v &&& 1 = 1) (hi : decode s.cmd = .ok i) :
    startsUndefined (.writeReg 0x40 v) s = true ↔ breaksRequire i s := by
  rw [startsUndefined_iff]
  constructor
  · rintro ⟨-, j, hj, hb⟩
    rwa [Except.ok.inj (hi.symm.trans hj)]
  · exact fun hb => ⟨.inl ⟨v, rfl, hv⟩, i, hi, hb⟩

theorem step_go (hp : s.pending = .writeReg 0x40 v :: rest) (hv : v &&& 1 = 1) (hi : decode s.cmd = .ok i)
    (hb : ¬ breaksRequire i s) : step s = exec i { s with pending := rest } := by
  rw [step_of_not_startsUndefined hp (mt (startsUndefined_go_iff hv hi).1 hb), perform_writeReg_go _ hv]
  exact runCommand_of_ok hi

theorem step_go_refused (hp : s.pending = .writeReg 0x40 v :: rest) (hv : v &&& 1 = 1) (hi : decode s.cmd = .ok i)
    (hb : breaksRequire i s) : step s = .refused .oversizeSample :=
  step_of_startsUndefined hp ((startsUndefined_go_iff hv hi).2 hb)

end

theorem decodeTableWord_eq_some {nbits w : Nat} {i : Instr} :
    decodeTableWord nbits w = some i ↔ decode (tableCommand nbits w) = .ok i := by
  rw [decodeTableWord]
  cases decode (tableCommand nbits w) <;> simp [Except.toOption]

@[simp] theorem withFetchWord_cmd (s : State) (nbits w : Nat) : (s.withFetchWord nbits w).cmd = tableCommand nbits w := rfl

@[simp] theorem withFetchWord_pending (s : State) (nbits w : Nat) :
    (s.withFetchWord nbits w).pending = .writeReg 0x40 1 :: s.pending := rfl

/-- Placing a command changes nothing that an operation reads. -/
theorem sameInputs_withFetchWord (s : State) (nbits w : Nat) : SameInputs (s.withFetchWord nbits w) s :=
  ⟨rfl, rfl, rfl, rfl⟩

/-- Settles O12: the placed state's next action is the `GO` write on the placed command. -/
theorem placedWordRuns : Obligations.PlacedWordRuns := by
  intro s nbits w i hw
  have hi : decode (s.withFetchWord nbits w).cmd = .ok i := by
    rw [withFetchWord_cmd, decodeTableWord_eq_some.1 hw]
  have hp := withFetchWord_pending s nbits w
  rw [← breaksRequire_congr (sameInputs_withFetchWord s nbits w)]
  exact ⟨step_go hp (by decide) hi, step_go_refused hp (by decide) hi⟩

end Sys2Proof.Machine
end

section
/-! ## What every step keeps

The invariant of 20_memory.md R50, 10_state.md R24 and 60_exceptions.md R280, through the two ends of an operation, a reset in
flight and the other actions of the host. -/

namespace Sys2Proof.Machine

/-- The `STATUS` values of an operation that succeeds (10_state.md R24): plain success, `VALID`, equal, not equal. -/
def successStatuses : List Word := [0x001, 0x401, 0x101, 0x201]

theorem successStatuses_legal : ∀ status ∈ successStatuses, status ∈ legalStatuses ∧ failBit status = false := by
  intro status h
  simp only [successStatuses, List.mem_cons, List.not_mem_nil, or_false] at h
  rcases h with rfl | rfl | rfl | rfl <;> decide

theorem statusFailed_legal {code : FailCode} {cmp : Comparison}
    (h : cmp = .notMade ∨ cmp = .unsupported ∧ code = .unsupportedFormat) : statusFailed code cmp ∈ legalStatuses := by
  rcases h with rfl | ⟨rfl, rfl⟩
  · cases code <;> decide
  · decide

/-- Every run of bytes that is not empty lies inside the address space (20_memory.md R50). -/
abbrev RunsInside (runs : List Run) : Prop := ∀ r ∈ runs, r.2 ≠ [] → r.1 + r.2.length ≤ 2 ^ 32

theorem firstWrites_inside {runs : List Run} (h : RunsInside runs) (n : Nat) : RunsInside (firstWrites n runs) := by
  intro q hq hne
  obtain ⟨r, hr, haddr, k, hbytes⟩ := firstWrites_mem hq
  have hr_ne : r.2 ≠ [] := by
    intro hnil
    rw [hbytes, hnil, List.take_nil] at hne
    exact hne rfl
  have hlen : q.2.length ≤ r.2.length := hbytes ▸ List.length_take_le' ..
  have hin := h r hr hr_ne
  omega

section
variable {s t : State}

/-- The invariant is about memory, `STATUS` and `RES` alone. -/
theorem StateInv.congr (h : StateInv s) (hmem : t.mem = s.mem) (hstatus : t.status = s.status) (hres : t.res = s.res) :
    StateInv t where
  memory := hmem ▸ h.memory
  status := hstatus ▸ h.status
  results := hstatus ▸ hres ▸ h.results

theorem stateInv_resetRegisters (hm : Memory.wf s.mem) : StateInv (resetRegisters s) where
  memory := by rwa [resetRegisters_mem]
  status := by
    rw [resetRegisters_status]
    decide
  results _ := resetRegisters_res s

theorem stateInv_raiseFail {code : FailCode} {cmp : Comparison} (hm : Memory.wf s.mem)
    (h : statusFailed code cmp ∈ legalStatuses) : StateInv (raiseFail code cmp s) where
  memory := by rwa [raiseFail_mem]
  status := by rwa [raiseFail_status]
  results _ := by rw [raiseFail_res, noResults_eq]

theorem stateInv_succeed {status : Word} {res : Vector Word 12} {runs : List Run} {draws : Nat} (hm : Memory.wf s.mem)
    (hs : status ∈ successStatuses) (hr : RunsInside runs) : StateInv (succeed status res runs draws s) where
  memory := storeRuns_wf hm hr
  status := (successStatuses_legal status hs).1
  results hfail := by
    rw [succeed_status, (successStatuses_legal status hs).2] at hfail
    cases hfail

theorem Effect.Sound.mono {statuses statuses' : List Word} {compares compares' : Prop} {e : Effect}
    (h : e.Sound statuses compares s) (hs : statuses ⊆ statuses') (hc : compares → compares') :
    e.Sound statuses' compares' s := by
  cases e with
  | done status res runs draws =>
    obtain ⟨hmem, hruns⟩ := h
    exact ⟨hs hmem, hruns⟩
  | failed code cmp =>
    obtain ⟨hcode, hcmp⟩ := h
    exact ⟨hcode, hcmp.imp_right fun ⟨hu, hf, hyes⟩ => ⟨hu, hf, hc hyes⟩⟩
  | faulted f => exact h
  | outside r => exact h

/-- `effectOf_sound` without the difference between the operations. -/
theorem effectOf_sound_success (i : Instr) (s : State) : (effectOf i s).Sound successStatuses True s := by
  rcases effectOf_sound i s with ⟨-, -, -, -, h⟩ | ⟨-, -, -, -, h⟩ | ⟨-, -, h⟩
  · exact h.mono (by decide) fun _ => trivial
  · exact h.mono (by decide) fun _ => trivial
  · exact h.mono (by decide) fun _ => trivial

theorem exec_stateInv {i : Instr} (hm : Memory.wf s.mem) (h : exec i s = .next t) : StateInv t := by
  have hsound := effectOf_sound_success i s
  rw [exec_eq_complete] at h
  rcases complete_next.1 h with ⟨status, res, runs, draws, he, rfl⟩ | ⟨code, cmp, he, rfl⟩ <;> rw [he] at hsound
  · obtain ⟨hstatus, hruns, -⟩ := hsound
    exact stateInv_succeed hm hstatus hruns
  · obtain ⟨-, hcmp⟩ := hsound
    exact stateInv_raiseFail hm (statusFailed_legal (hcmp.imp_right fun ⟨hu, hf, _⟩ => ⟨hu, hf⟩))

theorem runCommand_stateInv (hm : Memory.wf s.mem) (h : runCommand s = .next t) : StateInv t := by
  unfold runCommand at h
  split at h
  · exact exec_stateInv hm h
  · cases h
    exact stateInv_raiseFail hm (statusFailed_legal (.inl rfl))

/-- Whether or not `CMD` spells a command, the writes of its effect lie inside the address space. -/
theorem commandEffect_inside {status : Word} {res : Vector Word 12} {runs : List Run} {draws : Nat}
    (h : commandEffect s = .done status res runs draws) : RunsInside runs := by
  unfold commandEffect at h
  split at h
  · next i _ =>
    have hsound := effectOf_sound_success i s
    rw [h] at hsound
    obtain ⟨-, hruns, -⟩ := hsound
    exact hruns
  · cases h

theorem abandon_stateInv (hm : Memory.wf s.mem) (h : abandon (commandEffect s) s = .next t) : StateInv t := by
  rcases abandon_next h with ⟨status, res, runs, draws, he, n, rfl⟩ | ⟨-, rfl⟩
  · exact stateInv_resetRegisters (storeRuns_wf hm (firstWrites_inside (commandEffect_inside he) n))
  · exact stateInv_resetRegisters hm

theorem writeRegister_stateInv {r : WindowReg} {value : Word} (hs : StateInv s) (h : writeRegister s r value = .next t) :
    StateInv t := by
  cases r with
  | cmd i =>
    cases h
    exact hs.congr rfl rfl rfl
  | ctrl =>
    rw [writeRegister] at h
    split at h
    · exact runCommand_stateInv hs.memory h
    · cases h
      exact hs
  | status | res _ | reserved =>
    cases h
    exact hs

/-- Whatever the host or the platform does, the invariant is kept. -/
theorem perform_stateInv {action : HostAction} (hs : StateInv s) (h : perform action s = .next t) : StateInv t := by
  cases action with
  | writeReg offset value =>
    rw [perform] at h
    split at h
    · exact writeRegister_stateInv hs h
    · cases h
  | readReg offset =>
    rw [perform] at h
    split at h
    · cases h
      exact hs.congr rfl rfl rfl
    · cases h
  | writeByte addr value =>
    rw [perform] at h
    split at h
    · cases h
    · cases h
      exact ⟨memStore_wf hs.memory addr.isLt value, hs.status, hs.results⟩
  | readByte addr =>
    rw [perform] at h
    split at h
    · cases h
    · cases h
      exact hs.congr rfl rfl rfl
  | reset =>
    cases h
    exact stateInv_resetRegisters hs.memory
  | goThenReset => exact abandon_stateInv hs.memory h

end

/-- Settles O13: a step that answers a next state is idle, or performs the host's next action. -/
theorem stepKeepsInvariant : Obligations.StepKeepsInvariant := by
  intro s t hs h
  rcases step_cases s with ⟨-, hstep⟩ | ⟨action, rest, -, ⟨-, hstep⟩ | ⟨-, hstep⟩⟩ <;> rw [hstep] at h
  · cases h
    exact hs
  · cases h
  · have hmoved : StateInv { s with pending := rest } := hs.congr rfl rfl rfl
    exact perform_stateInv hmoved h

end Sys2Proof.Machine
end

section
/-! ## The host's bytes of memory

A host access to a byte is by whether there is memory behind it (20_memory.md R59, log 7). -/

namespace Sys2Proof.Machine

section
variable {s : State}

theorem touchesUnbacked_singleton {r : Range} : touchesUnbacked s [r] ↔ ¬ isBacked s r := by
  simp only [touchesUnbacked, isBacked, List.mem_singleton, exists_eq_left, not_forall, not_not, exists_prop]

variable {a : BitVec 32}

theorem perform_writeByte (h : isBacked s ⟨a.toNat, 1⟩) (v : Byte) :
    perform (.writeByte a v) s = .next { s with mem := memStore s.mem a.toNat v } :=
  if_neg (not_not.2 h ∘ touchesUnbacked_singleton.1)

theorem perform_readByte (h : isBacked s ⟨a.toNat, 1⟩) :
    perform (.readByte a) s = .next (observe s ((memByte s.mem a.toNat).setWidth 32)) :=
  if_neg (not_not.2 h ∘ touchesUnbacked_singleton.1)

theorem perform_writeByte_unbacked (h : ¬ isBacked s ⟨a.toNat, 1⟩) (v : Byte) :
    perform (.writeByte a v) s = .fault .unbackedMemory :=
  if_pos (touchesUnbacked_singleton.2 h)

theorem perform_readByte_unbacked (h : ¬ isBacked s ⟨a.toNat, 1⟩) : perform (.readByte a) s = .fault .unbackedMemory :=
  if_pos (touchesUnbacked_singleton.2 h)

end

theorem perform_writeReg_partial {n : Nat} (h : ¬ wholeWord n) (v : Word) (s : State) :
    perform (.writeReg n v) s = .refused .partialRegisterAccess := if_neg h

theorem perform_readReg_partial {n : Nat} (h : ¬ wholeWord n) (s : State) :
    perform (.readReg n) s = .refused .partialRegisterAccess := if_neg h

/-- Settles O9: the write is one `memStore`, after which the bytes read as `memByte_memStore` says. -/
theorem hostMemoryBytes : Obligations.HostMemoryBytes := by
  intro s a v hwf hbacked
  have hread := memByte_memStore (rising_of_wf hwf) a.toNat v
  refine ⟨⟨_, perform_writeByte hbacked v, rfl, ?_, fun x hx => ?_⟩, perform_readByte hbacked⟩
  · rw [hread, if_pos rfl]
  · rw [hread, if_neg hx]

/-- Settles O10: what the host's accesses answer where they have no meaning. -/
theorem hostAccessStops : Obligations.HostAccessStops := by
  intro s a b n v
  refine ⟨fun h => ⟨perform_writeByte_unbacked h b, perform_readByte_unbacked h⟩, fun h => ?_⟩
  exact ⟨perform_writeReg_partial h v s, perform_readReg_partial h s⟩

end Sys2Proof.Machine
end

section
/-! ## The two stops of an operation on memory

Where its checks pass, every operation that touches memory is the guard of a range it reads and a range it writes
(20_memory.md R59, R68, logs 6 and 7): one lemma says how the guard stops, and one for each family what is guarded. -/

namespace Sys2Proof.Machine

/-- The two stops of a command that reads `src` and writes `dst`: overlapping ranges are refused, and otherwise a range
without memory behind it faults. -/
def StopsOn (i : Instr) (s : State) (src dst : Range) : Prop :=
  (dst.overlaps src → exec i s = .refused .overlappingBuffers) ∧
    (¬ dst.overlaps src → ¬ (isBacked s src ∧ isBacked s dst) → exec i s = .fault .unbackedMemory)

/-- An effect is some other behind the guard of a range read and a range written. -/
def GuardedBy (s : State) (src dst : Range) (e : Effect) : Prop := ∃ e', e = guarded s [src] [dst] e'

section
variable {s : State} {src dst : Range} {e : Effect}

theorem writesOverRead_singleton : writesOverRead [src] [dst] ↔ dst.overlaps src := by
  simp only [writesOverRead, List.mem_singleton, exists_eq_left]

/-- Two ranges are free of unbacked addresses when each is. -/
theorem touchesUnbacked_pair : touchesUnbacked s [src, dst] ↔ ¬ (isBacked s src ∧ isBacked s dst) := by
  simp only [touchesUnbacked, isBacked, List.mem_cons, List.not_mem_nil, or_false, exists_eq_or_imp, exists_eq_left,
    ← forall₂_and, ← not_or, not_forall, not_not, exists_prop]

theorem guarded_overlap (h : dst.overlaps src) : guarded s [src] [dst] e = .outside .overlappingBuffers :=
  if_pos (writesOverRead_singleton.2 h)

theorem guarded_unbacked {reads writes : List Range} (h : ¬ writesOverRead reads writes)
    (hu : touchesUnbacked s (reads ++ writes)) : guarded s reads writes e = .faulted .unbackedMemory := by
  rw [guarded, if_neg h, if_pos hu]

theorem stopsOn_of_guarded {i : Instr} (h : GuardedBy s src dst (effectOf i s)) : StopsOn i s src dst := by
  obtain ⟨e, he⟩ := h
  rw [StopsOn, exec_eq_complete, he]
  refine ⟨fun ho => ?_, fun ho hb => ?_⟩
  · rw [guarded_overlap ho, complete]
  · rw [guarded_unbacked (mt writesOverRead_singleton.1 ho) (touchesUnbacked_pair.2 hb), complete]

/-! ### The line codec -/

section
variable {fmt : PixelFormat} {gB gC gP : Nat} {a : LineArgs}

theorem packedRange_eq (hg : elementGeometry fmt = ⟨gB, gC, gP⟩) :
    (⟨a.packedAddr, packedBytes fmt a⟩ : Range) = packedRange gB gP a := by rw [packedBytes, groupCount, hg]

theorem compRange_eq (hg : elementGeometry fmt = ⟨gB, gC, gP⟩) :
    (⟨a.compAddr, compBytes fmt a⟩ : Range) = compRange gC gP a := by rw [compBytes, groupCount, hg]

theorem unpackEffect_guarded (hg : elementGeometry fmt = ⟨gB, gC, gP⟩) (hc : hasLineCodec fmt = true)
    (h : linePasses fmt gB gC gP a) (group : Memory → Nat → List Nat) :
    GuardedBy s (packedRange gB gP a) (compRange gC gP a) (unpackEffect fmt group a s) := by
  rw [unpackEffect, lineFailure_of_passes hg hc h, packedRange_eq hg, compRange_eq hg]
  exact ⟨_, rfl⟩

theorem packEffect_guarded (hg : elementGeometry fmt = ⟨gB, gC, gP⟩) (hc : hasLineCodec fmt = true)
    (h : linePasses fmt gB gC gP a) (pack : List Nat → Option (List Byte)) :
    GuardedBy s (compRange gC gP a) (packedRange gB gP a) (packEffect fmt pack a s) := by
  rw [packEffect, lineFailure_of_passes hg hc h, packedRange_eq hg, compRange_eq hg]
  exact ⟨_, rfl⟩

end

/-- Each pair of rows with a codec, by its format's group. -/
theorem codec_guarded {p : CodecPair} (hp : p ∈ codecPairs) {a : LineArgs} (h : linePasses p.fmt p.gB p.gC p.gP a) :
    GuardedBy s (packedRange p.gB p.gP a) (compRange p.gC p.gP a) (effectOf (p.unpack a) s) ∧
      GuardedBy s (compRange p.gC p.gP a) (packedRange p.gB p.gP a) (effectOf (p.pack a) s) := by
  simp only [codecPairs, List.mem_cons, List.not_mem_nil, or_false] at hp
  rcases hp with rfl | rfl | rfl | rfl | rfl | rfl | rfl | rfl | rfl <;>
    exact ⟨unpackEffect_guarded rfl rfl h _, packEffect_guarded rfl rfl h _⟩

/-! ### The converter -/

theorem cscEffect_guarded {minPixels nIn nOut : Nat} {b : LinePair} (h1 : b.srcAddr ≠ 0) (h2 : b.dstAddr ≠ 0)
    (h : cscPasses minPixels nIn nOut b) (cells : List Nat) :
    GuardedBy s ⟨b.srcAddr, nIn⟩ ⟨b.dstAddr, nOut⟩ (cscEffect minPixels nIn nOut b cells s) := by
  rw [cscEffect, cscFailure_of_passes h1 h2 h]
  exact ⟨_, rfl⟩

/-! ### The raster transforms -/

theorem effectQsplit_guarded (q : Quadrant) {a : QuadArgs} (h : QuadPasses a) :
    GuardedBy s (fullRange a) (quadRange a) (effectQsplit q a s) := by
  rw [effectQsplit, quadFailure_of_passes h]
  exact ⟨_, rfl⟩

theorem effectQmerge_guarded (q : Quadrant) {a : QuadArgs} (h : QuadPasses a) :
    GuardedBy s (quadRange a) (fullRange a) (effectQmerge q a s) := by
  rw [effectQmerge, quadFailure_of_passes h]
  exact ⟨_, rfl⟩

section
variable {fmt : PixelFormat} {gB gP : Nat} {b : BlitArgs}

theorem blitFailure_of_passes (hsame : b.srcAddr ≠ b.dstAddr)
    (hempty : b.srcPitch ≠ 0 ∧ b.dstPitch ≠ 0 ∧ b.srcHeight ≠ 0 ∧ b.dstHeight ≠ 0)
    (hwhole : b.srcX % gP = 0 ∧ b.rectW % gP = 0 ∧ b.dstX % gP = 0)
    (hfits : b.srcAddr + b.srcPitch * b.srcHeight ≤ 2 ^ 32 ∧ b.dstAddr + b.dstPitch * b.dstHeight ≤ 2 ^ 32) :
    blitFailure gP b = none := by
  rw [blitFailure_eq, if_neg (not_not.2 ⟨hsame, hempty, hwhole⟩), if_neg (not_not.2 hfits)]

theorem effectBlit_guarded (hg : granularity fmt = some (gB, gP)) (hnull : b.srcAddr ≠ 0 ∧ b.dstAddr ≠ 0)
    (hf : blitFailure gP b = none) (hclip : ¬ (blitRowBytes gB gP b = 0 ∨ clipHeight b = 0)) :
    GuardedBy s ⟨b.srcAddr, b.srcPitch * b.srcHeight⟩ ⟨b.dstAddr, b.dstPitch * b.dstHeight⟩ (effectBlit fmt b s) := by
  rw [effectBlit, if_neg (not_or.2 hnull), hg]
  dsimp only
  rw [hf]
  exact ⟨_, if_neg hclip⟩

/-- A `BLIT` clipped to nothing ends in success, whatever its rasters (44_raster_transforms.md R254). -/
theorem exec_blit_clipped (hg : granularity fmt = some (gB, gP)) (hnull : b.srcAddr ≠ 0 ∧ b.dstAddr ≠ 0)
    (hf : blitFailure gP b = none) (hclip : blitRowBytes gB gP b = 0 ∨ clipHeight b = 0) :
    exec (.blit fmt b) s = .next (succeed statusDone (resultsOf [clipWidth gB gP b, clipHeight b]) [] 0 s) := by
  rw [exec_eq_complete, effectOf, effectBlit, if_neg (not_or.2 hnull), hg]
  dsimp only
  rw [hf]
  dsimp only
  rw [if_pos hclip, complete]

end

/-! ### The reader -/

section
variable {fmt : PixelFormat} {vm : Bool} {v : ViewArgs}

theorem effectView_guarded (hA : v.aAddr ≠ 0) (hB : v.bAddr ≠ 0)
    (hf : viewFailure fmt (mkDesc fmt v.size vm) v.aAddr v.aLen = none)
    (hfits : fits v.bAddr v.bLen (2 * slotCount fmt (mkDesc fmt v.size vm))) :
    GuardedBy s ⟨v.aAddr, (mkDesc fmt v.size vm).totalBytes⟩ ⟨v.bAddr, 2 * slotCount fmt (mkDesc fmt v.size vm)⟩
      (effectView fmt vm v s) := by
  have hop : viewOpFailure fmt (mkDesc fmt v.size vm) v = none := by
    rw [viewOpFailure, if_neg (not_or.2 ⟨hA, hB⟩), hf]
    exact if_neg (not_not.2 hfits)
  rw [effectView, hop]
  exact ⟨_, rfl⟩

/-- `CMPV` writes nothing, so that missing memory is its only stop (43_component_reader.md R229). -/
theorem exec_cmpv_unbacked (hA : v.aAddr ≠ 0) (hB : v.bAddr ≠ 0) (hmodelled : isModelled fmt)
    (hfA : viewFailure fmt (mkDesc fmt v.size vm) v.aAddr v.aLen = none)
    (hfB : viewFailure fmt (mkDesc fmt v.size vm) v.bAddr v.bLen = none)
    (hb : ¬ (isBacked s ⟨v.aAddr, (mkDesc fmt v.size vm).totalBytes⟩ ∧
      isBacked s ⟨v.bAddr, (mkDesc fmt v.size vm).totalBytes⟩)) :
    exec (.cmpv fmt vm v) s = .fault .unbackedMemory := by
  have hwrites : ∀ reads, ¬ writesOverRead reads [] := fun _ ⟨_, hw, _⟩ => List.not_mem_nil hw
  rw [exec_eq_complete, effectOf, effectCmpv, if_neg (not_or.2 ⟨hA, hB⟩), if_neg (not_not.2 hmodelled), hfA]
  dsimp only
  rw [hfB]
  dsimp only
  rw [guarded_unbacked (hwrites _) (touchesUnbacked_pair.2 hb), complete]

end

end

/-- Settles O20: each family's effect is guarded by its ranges, but `CMPV`, which only reads, and an empty `BLIT`. -/
theorem overlapAndUnbackedStop : Obligations.OverlapAndUnbackedStop := by
  intro s
  refine ⟨fun p hp a h => ?codec, fun a4 b h1 h2 => ?converter, fun q a h => ?quadrants,
    fun fmt vm v hA hB hmodelled hgeometry hfitsA => ?reader,
    fun fmt gB gP b hg ⟨hnull, hsame⟩ hempty hwhole hfits => ?blit⟩
  case codec => exact (codec_guarded hp h).imp stopsOn_of_guarded stopsOn_of_guarded
  case converter =>
    refine ⟨fun h _ _ _ _ => ?_, fun h _ _ _ => ?_, fun h _ _ => ?_⟩ <;>
      exact stopsOn_of_guarded (cscEffect_guarded h1 h2 h _)
  case quadrants =>
    exact ⟨stopsOn_of_guarded (effectQsplit_guarded q h), stopsOn_of_guarded (effectQmerge_guarded q h)⟩
  case reader =>
    have hfA := (viewFailure_size hA hmodelled hgeometry).trans (if_pos hfitsA)
    refine ⟨fun hfitsB => stopsOn_of_guarded (effectView_guarded hA hB hfA hfitsB), fun hfitsB hb => ?_⟩
    have hfB := (viewFailure_size hB hmodelled hgeometry).trans (if_pos hfitsB)
    exact exec_cmpv_unbacked hA hB hmodelled hfA hfB hb
  case blit =>
    have hf := blitFailure_of_passes hsame hempty hwhole hfits
    refine ⟨fun ⟨hrow, hheight⟩ => ?_, fun hclip => ⟨_, exec_blit_clipped hg hnull hf hclip⟩⟩
    exact stopsOn_of_guarded (effectBlit_guarded hg hnull hf (not_or.2 ⟨hrow, hheight⟩))

end Sys2Proof.Machine
end

section
/-! ## What the words of a command say

One relation, `Spells`, says once which sixteen words are which command, by the fields of `CMD[0]` and the operand words
(30_encoding.md R81 to R90); `decode` answers exactly it. -/

namespace Sys2Proof.Machine

/-! ### Rows of the opcode map -/

/-- The words have the opcode of a row and zeros in the fields and words that the row leaves unused (30_encoding.md R88, R89). -/
structure MeetsRow (op : Nat) (u : UnusedFields) (first : Nat) (cmd : Command) : Prop where
  op_eq : field cmd[0] 7 0 = op
  fields_zero : fieldsZero cmd[0] u = true
  words_zero : wordsZeroFrom first cmd = true

/-- The rows of the line codec: an opcode, a PixelFormat code and the command that the two name (30_encoding.md R88). -/
inductive LineRow : Nat → Nat → (LineArgs → Instr) → Prop where
  | unpack {code : Nat} {make : LineArgs → Instr} (h : unpackOfCode code = some make) : LineRow 0x10 code make
  | pack {code : Nat} {make : LineArgs → Instr} (h : packOfCode code = some make) : LineRow 0x11 code make

/-- The descriptor of a format L command with `HD = 1` (30_encoding.md R83). -/
def lineDescriptorOf (cmd : Command) : LineDescriptor :=
  ⟨formatOfCode (field cmd[0] 19 14), flag cmd[0] 21, rasterSizeAt cmd 6 7 8⟩

/-- The sixteen words spell the command: they meet its row, and its operands are what the row's fields and words hold. -/
inductive Spells (cmd : Command) : Instr → Prop where
  | geom {fmt : PixelFormat} (row : MeetsRow 0x01 geomUnused 1 cmd) (hfmt : fmtField cmd = fmt) : Spells cmd (.geom fmt)
  | desc {fmt : PixelFormat} {vm : Bool} {r : RasterSize} (row : MeetsRow 0x02 descUnused 4 cmd)
      (hfmt : fmtField cmd = fmt) (hvm : flag cmd[0] 21 = vm) (hr : rasterSizeAt cmd 1 2 3 = r) :
      Spells cmd (.desc fmt vm r)
  | lineBare {op : Nat} {make : LineArgs → Instr} {a : LineArgs} (names : LineRow op (field cmd[0] 13 8) make)
      (row : MeetsRow op lineUnusedWithoutDescriptor 6 cmd) (hd : flag cmd[0] 20 = false)
      (ha : lineArgsOf cmd none = a) : Spells cmd (make a)
  | lineDescribed {op : Nat} {make : LineArgs → Instr} {a : LineArgs} (names : LineRow op (field cmd[0] 13 8) make)
      (row : MeetsRow op lineUnused 9 cmd) (hd : flag cmd[0] 20 = true)
      (ha : lineArgsOf cmd (some (lineDescriptorOf cmd)) = a) : Spells cmd (make a)
  | cscY2R {sd sr al a4 : Bool} {dep : Depth} {b : LinePair} (row : MeetsRow 0x20 y2rUnused 6 cmd)
      (hsd : flag cmd[0] 22 = sd) (hsr : flag cmd[0] 23 = sr) (hal : flag cmd[0] 24 = al) (ha4 : flag cmd[0] 25 = a4)
      (hdep : depthOfCode (field cmd[0] 27 26) = some dep) (hb : linePairOf cmd = b) :
      Spells cmd (.cscY2R sd sr al a4 dep b)
  | cscR2Y {sd sr a4 : Bool} {dep : Depth} {b : LinePair} (row : MeetsRow 0x21 r2yUnused 6 cmd)
      (hsd : flag cmd[0] 22 = sd) (hsr : flag cmd[0] 23 = sr) (ha4 : flag cmd[0] 25 = a4)
      (hdep : depthOfCode (field cmd[0] 27 26) = some dep) (hb : linePairOf cmd = b) : Spells cmd (.cscR2Y sd sr a4 dep b)
  | cscRDepth {a4 : Bool} {dep dep2 : Depth} {b : LinePair} (row : MeetsRow 0x22 rdepthUnused 6 cmd)
      (ha4 : flag cmd[0] 25 = a4) (hdep : depthOfCode (field cmd[0] 27 26) = some dep)
      (hdep2 : depthOfCode (field cmd[0] 29 28) = some dep2) (hb : linePairOf cmd = b) :
      Spells cmd (.cscRDepth a4 dep dep2 b)
  | view {fmt : PixelFormat} {vm : Bool} {v : ViewArgs} (row : MeetsRow 0x30 viewUnused 8 cmd) (hfmt : fmtField cmd = fmt)
      (hvm : flag cmd[0] 21 = vm) (hv : viewArgsOf cmd = v) : Spells cmd (.view fmt vm v)
  | cmpv {fmt : PixelFormat} {vm : Bool} {v : ViewArgs} (row : MeetsRow 0x31 viewUnused 8 cmd) (hfmt : fmtField cmd = fmt)
      (hvm : flag cmd[0] 21 = vm) (hv : viewArgsOf cmd = v) : Spells cmd (.cmpv fmt vm v)
  | blit {fmt : PixelFormat} {b : BlitArgs} (row : MeetsRow 0x40 blitUnused 13 cmd) (hfmt : fmtField cmd = fmt)
      (hb : blitArgsOf cmd = b) : Spells cmd (.blit fmt b)
  | qsplit {q : Quadrant} {a : QuadArgs} (row : MeetsRow 0x41 quadUnused 6 cmd)
      (hq : quadrantOfCode (field cmd[0] 31 30) = q) (ha : quadArgsOf cmd = a) : Spells cmd (.qsplit q a)
  | qmerge {q : Quadrant} {a : QuadArgs} (row : MeetsRow 0x42 quadUnused 6 cmd)
      (hq : quadrantOfCode (field cmd[0] 31 30) = q) (ha : quadArgsOf cmd = a) : Spells cmd (.qmerge q a)

/-! ### The decoder answers what the words spell -/

section
variable {cmd : Command} {i : Instr} {op first : Nat} {u : UnusedFields} {row : Except DecodeError Instr}

theorem MeetsRow.mustBeZero_eq (h : MeetsRow op u first cmd) : mustBeZero u first cmd row = row := by
  rw [mustBeZero, h.fields_zero, h.words_zero, if_neg (by decide), if_neg (by decide)]

theorem meetsRow_of_mustBeZero_ok (hop : field cmd[0] 7 0 = op) (h : mustBeZero u first cmd row = .ok i) :
    MeetsRow op u first cmd ∧ row = .ok i := by
  unfold mustBeZero at h
  split_ifs at h with hfields hwords
  exact ⟨⟨hop, eq_true_of_ne_false hfields, eq_true_of_ne_false hwords⟩, h⟩

theorem withDepth_eq {code : Nat} {d : Depth} {f : Depth → Except DecodeError Instr} (h : depthOfCode code = some d) :
    withDepth code f = f d := by
  rw [withDepth, h]

theorem depth_of_withDepth_ok {code : Nat} {f : Depth → Except DecodeError Instr} (h : withDepth code f = .ok i) :
    ∃ d, depthOfCode code = some d ∧ f d = .ok i := by
  unfold withDepth at h
  split at h
  · cases h
  · next d hd => exact ⟨d, hd, h⟩

theorem decodeLine_bare {rows : Nat → Option (LineArgs → Instr)} {make : LineArgs → Instr}
    (names : rows (field cmd[0] 13 8) = some make) (h : MeetsRow op lineUnusedWithoutDescriptor 6 cmd)
    (hd : flag cmd[0] 20 = false) : decodeLine rows cmd = .ok (make (lineArgsOf cmd none)) := by
  simp only [decodeLine, names, hd, h.mustBeZero_eq, Bool.false_eq_true, if_false]

theorem decodeLine_described {rows : Nat → Option (LineArgs → Instr)} {make : LineArgs → Instr}
    (names : rows (field cmd[0] 13 8) = some make) (h : MeetsRow op lineUnused 9 cmd) (hd : flag cmd[0] 20 = true) :
    decodeLine rows cmd = .ok (make (lineArgsOf cmd (some (lineDescriptorOf cmd)))) := by
  simp only [decodeLine, names, hd, h.mustBeZero_eq, if_true, lineDescriptorOf]

theorem spells_of_decodeLine_ok {rows : Nat → Option (LineArgs → Instr)} (hop : field cmd[0] 7 0 = op)
    (names : ∀ {make}, rows (field cmd[0] 13 8) = some make → LineRow op (field cmd[0] 13 8) make)
    (h : decodeLine rows cmd = .ok i) : Spells cmd i := by
  unfold decodeLine at h
  split at h
  · cases h
  · next make hmake =>
    split_ifs at h with hd
    · obtain ⟨row, ⟨⟩⟩ := meetsRow_of_mustBeZero_ok hop h
      exact .lineDescribed (names hmake) row hd rfl
    · obtain ⟨row, ⟨⟩⟩ := meetsRow_of_mustBeZero_ok hop h
      exact .lineBare (names hmake) row (eq_false_of_ne_true hd) rfl

/-- Down the decoder's chain of opcodes (30_encoding.md R88), one row at a time. -/
theorem spells_of_decode_ok (h : decode cmd = .ok i) : Spells cmd i := by
  rw [decode] at h
  rcases ite_eq_iff.1 h with ⟨hop, h⟩ | ⟨-, h⟩
  · obtain ⟨row, ⟨⟩⟩ := meetsRow_of_mustBeZero_ok hop h
    exact .geom row rfl
  rcases ite_eq_iff.1 h with ⟨hop, h⟩ | ⟨-, h⟩
  · obtain ⟨row, ⟨⟩⟩ := meetsRow_of_mustBeZero_ok hop h
    exact .desc row rfl rfl rfl
  rcases ite_eq_iff.1 h with ⟨hop, h⟩ | ⟨-, h⟩
  · exact spells_of_decodeLine_ok hop .unpack h
  rcases ite_eq_iff.1 h with ⟨hop, h⟩ | ⟨-, h⟩
  · exact spells_of_decodeLine_ok hop .pack h
  rcases ite_eq_iff.1 h with ⟨hop, h⟩ | ⟨-, h⟩
  · obtain ⟨row, hi⟩ := meetsRow_of_mustBeZero_ok hop h
    obtain ⟨dep, hdep, ⟨⟩⟩ := depth_of_withDepth_ok hi
    exact .cscY2R row rfl rfl rfl rfl hdep rfl
  rcases ite_eq_iff.1 h with ⟨hop, h⟩ | ⟨-, h⟩
  · obtain ⟨row, hi⟩ := meetsRow_of_mustBeZero_ok hop h
    obtain ⟨dep, hdep, ⟨⟩⟩ := depth_of_withDepth_ok hi
    exact .cscR2Y row rfl rfl rfl hdep rfl
  rcases ite_eq_iff.1 h with ⟨hop, h⟩ | ⟨-, h⟩
  · obtain ⟨row, hi⟩ := meetsRow_of_mustBeZero_ok hop h
    obtain ⟨dep, hdep, hi⟩ := depth_of_withDepth_ok hi
    obtain ⟨dep2, hdep2, ⟨⟩⟩ := depth_of_withDepth_ok hi
    exact .cscRDepth row rfl hdep hdep2 rfl
  rcases ite_eq_iff.1 h with ⟨hop, h⟩ | ⟨-, h⟩
  · obtain ⟨row, ⟨⟩⟩ := meetsRow_of_mustBeZero_ok hop h
    exact .view row rfl rfl rfl
  rcases ite_eq_iff.1 h with ⟨hop, h⟩ | ⟨-, h⟩
  · obtain ⟨row, ⟨⟩⟩ := meetsRow_of_mustBeZero_ok hop h
    exact .cmpv row rfl rfl rfl
  rcases ite_eq_iff.1 h with ⟨hop, h⟩ | ⟨-, h⟩
  · obtain ⟨row, ⟨⟩⟩ := meetsRow_of_mustBeZero_ok hop h
    exact .blit row rfl rfl
  rcases ite_eq_iff.1 h with ⟨hop, h⟩ | ⟨-, h⟩
  · obtain ⟨row, ⟨⟩⟩ := meetsRow_of_mustBeZero_ok hop h
    exact .qsplit row rfl rfl
  rcases ite_eq_iff.1 h with ⟨hop, h⟩ | ⟨-, h⟩
  · obtain ⟨row, ⟨⟩⟩ := meetsRow_of_mustBeZero_ok hop h
    exact .qmerge row rfl rfl
  · cases h

theorem decode_of_spells (h : Spells cmd i) : decode cmd = .ok i := by
  cases h with
  | geom row hfmt => simp [decode, row.op_eq, row.mustBeZero_eq, hfmt]
  | desc row hfmt hvm hr => simp [decode, row.op_eq, row.mustBeZero_eq, hfmt, hvm, hr]
  | lineBare names row hd ha =>
    cases names with
    | unpack hmake => simp [decode, row.op_eq, decodeLine_bare hmake row hd, ha]
    | pack hmake => simp [decode, row.op_eq, decodeLine_bare hmake row hd, ha]
  | lineDescribed names row hd ha =>
    cases names with
    | unpack hmake => simp [decode, row.op_eq, decodeLine_described hmake row hd, ha]
    | pack hmake => simp [decode, row.op_eq, decodeLine_described hmake row hd, ha]
  | cscY2R row hsd hsr hal ha4 hdep hb =>
    simp [decode, row.op_eq, row.mustBeZero_eq, withDepth_eq hdep, hsd, hsr, hal, ha4, hb]
  | cscR2Y row hsd hsr ha4 hdep hb =>
    simp [decode, row.op_eq, row.mustBeZero_eq, withDepth_eq hdep, hsd, hsr, ha4, hb]
  | cscRDepth row ha4 hdep hdep2 hb =>
    simp [decode, row.op_eq, row.mustBeZero_eq, withDepth_eq hdep, withDepth_eq hdep2, ha4, hb]
  | view row hfmt hvm hv => simp [decode, row.op_eq, row.mustBeZero_eq, hfmt, hvm, hv]
  | cmpv row hfmt hvm hv => simp [decode, row.op_eq, row.mustBeZero_eq, hfmt, hvm, hv]
  | blit row hfmt hb => simp [decode, row.op_eq, row.mustBeZero_eq, hfmt, hb]
  | qsplit row hq ha => simp [decode, row.op_eq, row.mustBeZero_eq, hq, ha]
  | qmerge row hq ha => simp [decode, row.op_eq, row.mustBeZero_eq, hq, ha]

/-- What the decoder answers, said once. -/
theorem decode_ok_iff : decode cmd = .ok i ↔ Spells cmd i := ⟨spells_of_decode_ok, decode_of_spells⟩

end
end Sys2Proof.Machine
end

section
/-! ## Legal words

What the mask table of 30_encoding.md section 5 says of a row, by the row's fields, so that the words it accepts spell a
command. -/

namespace Sys2Proof.Machine

section
variable {cmd : Command} {op first : Nat} {u : UnusedFields}

theorem op_of_masked {w : Word} (h : cmd[0] &&& 0xFF#32 = w) : field cmd[0] 7 0 = w.toNat := by
  rw [← h, BitVec.toNat_and, BitVec.toNat_ofNat, show 0xFF % 2 ^ 32 = 2 ^ 8 - 1 by rfl, and_low_mask]
  simp [field]

/-- A row of the mask table, read by fields. -/
theorem meetsRow_of_accepts {f : CommandForm} (h : f.accepts cmd) (hop : f.op.toNat = op) (hu : ∀ g ∈ u, g.2 ≤ g.1)
    (hzeros : f.zeros = .ofNat 32 (maskOf u)) : MeetsRow op u f.firstUnused cmd := by
  obtain ⟨hopcode, -, hmask, hwords⟩ := h
  exact ⟨(op_of_masked hopcode).trans hop, (fieldsZero_iff hu _).2 (hzeros ▸ hmask), decide_eq_true hwords⟩

theorem described_of_accepts {f : CommandForm} (h : f.accepts cmd) (hones : f.ones = .ofNat 32 (2 ^ (20 + 1) - 2 ^ 20)) :
    flag cmd[0] 20 = true := by
  obtain ⟨-, hmask, -⟩ := h
  rw [hones] at hmask
  exact decide_eq_true ((field_full_iff (Nat.le_refl 20) (by decide) _).1 hmask)

/-- Fields that lie within zero fields are zero. -/
theorem fieldsZero_within {v : Word} {u u' : UnusedFields} (h : fieldsZero v u = true)
    (hin : ∀ g ∈ u', ∃ f ∈ u, f.2 ≤ g.2 ∧ g.1 ≤ f.1) : fieldsZero v u' = true := by
  simp only [fieldsZero, List.all_eq_true, decide_eq_true_eq, field_eq_zero_iff] at h ⊢
  intro g hg i hlo hhi
  obtain ⟨f, hf, hflo, hfhi⟩ := hin g hg
  exact h f hf i (by omega) (by omega)

/-- The bits above `fmt` are `HD` and the fields that format L leaves unused without a descriptor. -/
theorem bare_of_meetsRow (h : MeetsRow op geomUnused first cmd) :
    MeetsRow op lineUnusedWithoutDescriptor first cmd ∧ flag cmd[0] 20 = false := by
  have hHD : fieldsZero cmd[0] [(20, 20)] = true := fieldsZero_within h.fields_zero (by decide)
  refine ⟨⟨h.op_eq, fieldsZero_within h.fields_zero (by decide), h.words_zero⟩, ?_⟩
  simp only [fieldsZero, List.all_cons, List.all_nil, Bool.and_true, decide_eq_true_eq] at hHD
  simp [flag, hHD]

/-- A field of six bits names a row of the line codec in either direction (30_encoding.md R91). -/
theorem unpackOfCode_of_lt {code : Nat} (h : code < 64) : ∃ make, unpackOfCode code = some make := by
  have all_named : ∀ c < 64, (unpackOfCode c).isSome = true := by decide
  exact Option.isSome_iff_exists.1 (all_named code h)

theorem packOfCode_of_lt {code : Nat} (h : code < 64) : ∃ make, packOfCode code = some make := by
  have all_named : ∀ c < 64, (packOfCode c).isSome = true := by decide
  exact Option.isSome_iff_exists.1 (all_named code h)

theorem field_lt (v : Word) (hi lo : Nat) : field v hi lo < 2 ^ (hi + 1 - lo) := Nat.mod_lt _ (Nat.two_pow_pos _)

/-- A two-bit field that is not all ones is a depth (30_encoding.md R90 (c)). -/
theorem depthOfCode_of_not_full {v : Word} {hi lo : Nat} (hlo : lo ≤ hi) (hhi : hi < 32) (hwidth : hi + 1 - lo = 2)
    (h : v &&& .ofNat 32 (2 ^ (hi + 1) - 2 ^ lo) ≠ .ofNat 32 (2 ^ (hi + 1) - 2 ^ lo)) :
    ∃ d, depthOfCode (field v hi lo) = some d := by
  have hne := mt (field_full_iff hlo hhi v).2 h
  have hlt := field_lt v hi lo
  rw [hwidth] at hne hlt
  have hcode : field v hi lo = 0 ∨ field v hi lo = 1 ∨ field v hi lo = 2 := by omega
  rcases hcode with hcode | hcode | hcode <;> exact ⟨_, congrArg depthOfCode hcode⟩

theorem spelled_line {make : LineArgs → Instr} (names : LineRow op (field cmd[0] 13 8) make)
    (row : MeetsRow op geomUnused 6 cmd ∨ MeetsRow op lineUnused 9 cmd ∧ flag cmd[0] 20 = true) : ∃ i, Spells cmd i := by
  rcases row with row | ⟨row, hd⟩
  · obtain ⟨row, hd⟩ := bare_of_meetsRow row
    exact ⟨_, .lineBare names row hd rfl⟩
  · exact ⟨_, .lineDescribed names row hd rfl⟩

/-- The words that meet a row of the mask table, with no reserved depth, spell that row's command. -/
theorem spelled_of_legal (h : legalCommand cmd) : ∃ i, Spells cmd i := by
  obtain ⟨⟨f, hf, hacc⟩, hdep, hdep2⟩ := h
  have hop := hacc.1
  obtain ⟨unpacked, hunpack⟩ := unpackOfCode_of_lt (field_lt cmd[0] 13 8)
  obtain ⟨packed, hpack⟩ := packOfCode_of_lt (field_lt cmd[0] 13 8)
  have source_depth (hcsc : f.op ∈ [0x20#32, 0x21#32, 0x22#32]) : ∃ d, depthOfCode (field cmd[0] 27 26) = some d :=
    depthOfCode_of_not_full (by decide) (by decide) rfl (hdep (hop ▸ hcsc))
  have source_depth2 (hcsc : f.op = 0x22#32) : ∃ d, depthOfCode (field cmd[0] 29 28) = some d :=
    depthOfCode_of_not_full (by decide) (by decide) rfl (hdep2 (hop.trans hcsc))
  simp only [commandForms, List.mem_cons, List.not_mem_nil, or_false] at hf
  rcases hf with rfl | rfl | rfl | rfl | rfl | rfl | rfl | rfl | rfl | rfl | rfl | rfl | rfl | rfl
  · exact ⟨_, .geom (meetsRow_of_accepts hacc rfl (by decide) rfl) rfl⟩
  · exact ⟨_, .desc (meetsRow_of_accepts hacc rfl (by decide) rfl) rfl rfl rfl⟩
  · exact spelled_line (.unpack hunpack)
      (.inr ⟨meetsRow_of_accepts hacc rfl (by decide) rfl, described_of_accepts hacc rfl⟩)
  · exact spelled_line (.unpack hunpack) (.inl (meetsRow_of_accepts hacc rfl (by decide) rfl))
  · exact spelled_line (.pack hpack)
      (.inr ⟨meetsRow_of_accepts hacc rfl (by decide) rfl, described_of_accepts hacc rfl⟩)
  · exact spelled_line (.pack hpack) (.inl (meetsRow_of_accepts hacc rfl (by decide) rfl))
  · obtain ⟨dep, hdep⟩ := source_depth (by decide)
    exact ⟨_, .cscY2R (meetsRow_of_accepts hacc rfl (by decide) rfl) rfl rfl rfl rfl hdep rfl⟩
  · obtain ⟨dep, hdep⟩ := source_depth (by decide)
    exact ⟨_, .cscR2Y (meetsRow_of_accepts hacc rfl (by decide) rfl) rfl rfl rfl hdep rfl⟩
  · obtain ⟨dep, hdep⟩ := source_depth (by decide)
    obtain ⟨dep2, hdep2⟩ := source_depth2 rfl
    exact ⟨_, .cscRDepth (meetsRow_of_accepts hacc rfl (by decide) rfl) rfl hdep hdep2 rfl⟩
  · exact ⟨_, .view (meetsRow_of_accepts hacc rfl (by decide) rfl) rfl rfl rfl⟩
  · exact ⟨_, .cmpv (meetsRow_of_accepts hacc rfl (by decide) rfl) rfl rfl rfl⟩
  · exact ⟨_, .blit (meetsRow_of_accepts hacc rfl (by decide) rfl) rfl rfl⟩
  · exact ⟨_, .qsplit (meetsRow_of_accepts hacc rfl (by decide) rfl) rfl rfl⟩
  · exact ⟨_, .qmerge (meetsRow_of_accepts hacc rfl (by decide) rfl) rfl rfl⟩

end
end Sys2Proof.Machine
end

section
/-! ## The words of a spelled command

A command that words spell is well formed, and encoding it writes those words again: `CMD[0]` is made up of its fields, each
unused one zero, and every other word is an operand or zero (30_encoding.md R80, R81, R89). -/

namespace Sys2Proof.Machine

open Sys2Proof.Laws

/-! ### Operands that are read from words are words -/

section
variable {cmd : Command} {op first : Nat} {u : UnusedFields}

theorem operand_lt (cmd : Command) (i : Fin 16) : operand cmd i < 2 ^ 32 := cmd[i].isLt

@[simp] theorem wordOk_operand (cmd : Command) (i : Fin 16) : wordOk (operand cmd i) = true :=
  decide_eq_true (operand_lt cmd i)

theorem formatOfCode_wf {n : Nat} (h : n < 64) : (formatOfCode n).wf = true := by
  match n with
  | 0 | 1 | 2 | 3 | 4 | 5 | 6 | 7 | 8 | 9 | 10 | 11 | 12 => rfl
  | n + 13 => exact decide_eq_true (by omega)

@[simp] theorem fmtField_wf (cmd : Command) : (fmtField cmd).wf = true := formatOfCode_wf (field_lt cmd[0] 13 8)

@[simp] theorem rasterSizeAt_wf (cmd : Command) (w h v : Fin 16) : (rasterSizeAt cmd w h v).wf = true := by
  simp [RasterSize.wf, rasterSizeAt]

@[simp] theorem lineDescriptorOf_wf (cmd : Command) : (lineDescriptorOf cmd).wf = true := by
  simp [LineDescriptor.wf, lineDescriptorOf, formatOfCode_wf (field_lt cmd[0] 19 14)]

theorem lineArgsOf_wf {desc : Option LineDescriptor} (h : desc.all LineDescriptor.wf = true) :
    (lineArgsOf cmd desc).wf = true := by
  simp [LineArgs.wf, lineArgsOf, h]

@[simp] theorem linePairOf_wf (cmd : Command) : (linePairOf cmd).wf = true := by simp [LinePair.wf, linePairOf]

@[simp] theorem viewArgsOf_wf (cmd : Command) : (viewArgsOf cmd).wf = true := by simp [ViewArgs.wf, viewArgsOf]

@[simp] theorem blitArgsOf_wf (cmd : Command) : (blitArgsOf cmd).wf = true := by simp [BlitArgs.wf, blitArgsOf]

@[simp] theorem quadArgsOf_wf (cmd : Command) : (quadArgsOf cmd).wf = true := by simp [QuadArgs.wf, quadArgsOf]

/-- What a row of the line codec fixes: its command takes the operands' words, and is encoded in format L by its numbers. -/
theorem LineRow.encodes {code : Nat} {make : LineArgs → Instr} (h : LineRow op code make) :
    (op = 0x10 ∨ op = 0x11) ∧ code < 64 ∧ ∀ a, (make a).wf = a.wf ∧ encode (make a) = encodeLine op code a := by
  cases h with
  | unpack h =>
    unfold unpackOfCode at h
    split at h <;> cases h <;> exact ⟨.inl rfl, by decide, fun _ => ⟨rfl, rfl⟩⟩
  | pack h =>
    unfold packOfCode at h
    split at h <;> cases h <;> exact ⟨.inr rfl, by decide, fun _ => ⟨rfl, rfl⟩⟩

/-- A command that words spell has operands that are words, each being one of theirs. -/
theorem spells_wellFormed {i : Instr} (h : Spells cmd i) : WellFormed i := by
  cases h with
  | lineBare names row hd ha =>
    obtain ⟨-, -, hmake⟩ := names.encodes
    exact (hmake _).1.trans (ha ▸ lineArgsOf_wf rfl)
  | lineDescribed names row hd ha =>
    obtain ⟨-, -, hmake⟩ := names.encodes
    exact (hmake _).1.trans (ha ▸ lineArgsOf_wf (lineDescriptorOf_wf cmd))
  | geom row hfmt => exact hfmt ▸ fmtField_wf cmd
  | _ => subst_vars; simp [WellFormed, Instr.wf]

/-! ### The words made up again -/

/-- Every command is the words it has. -/
theorem commandOfNats_operands (cmd : Command) :
    commandOfNats (operand cmd 0) (operand cmd 1) (operand cmd 2) (operand cmd 3) (operand cmd 4) (operand cmd 5)
      (operand cmd 6) (operand cmd 7) (operand cmd 8) (operand cmd 9) (operand cmd 10) (operand cmd 11) (operand cmd 12)
      (operand cmd 13) (operand cmd 14) (operand cmd 15) = cmd := by
  refine Vector.ext fun i hi => ?_
  have hword : ∀ j, BitVec.ofNat 32 (operand cmd j) = cmd[j] := fun j => BitVec.ofNat_toNat 32 cmd[j]
  interval_cases i <;> exact hword _

theorem operand_eq_zero (row : MeetsRow op u first cmd) {i : Fin 16} (hi : first ≤ i.val) : operand cmd i = 0 := by
  have hz : cmd[i] = 0 := of_decide_eq_true row.words_zero i hi
  rw [operand, hz]
  rfl

/-- The fields of `CMD[0]` make up the word (30_encoding.md R81). -/
theorem operand_zero_eq_fields (cmd : Command) :
    operand cmd 0 = field cmd[0] 7 0 + field cmd[0] 13 8 * 2 ^ 8 + field cmd[0] 19 14 * 2 ^ 14 +
      field cmd[0] 20 20 * 2 ^ 20 + field cmd[0] 21 21 * 2 ^ 21 + field cmd[0] 22 22 * 2 ^ 22 +
      field cmd[0] 23 23 * 2 ^ 23 + field cmd[0] 24 24 * 2 ^ 24 + field cmd[0] 25 25 * 2 ^ 25 +
      field cmd[0] 27 26 * 2 ^ 26 + field cmd[0] 29 28 * 2 ^ 28 + field cmd[0] 31 30 * 2 ^ 30 := by
  have h : cmd[0].toNat < 2 ^ 32 := cmd[0].isLt
  change cmd[0].toNat = _
  simp only [field]
  omega

theorem field_eq_zero_of_row (row : MeetsRow op u first cmd) {hi lo : Nat} (hin : ∃ f ∈ u, f.2 ≤ lo ∧ hi ≤ f.1) :
    field cmd[0] hi lo = 0 := by
  have h : fieldsZero cmd[0] [(hi, lo)] = true := fieldsZero_within row.fields_zero (by simpa using hin)
  simpa [fieldsZero] using h

@[simp] theorem formatCode_fmtField (cmd : Command) : formatCode (fmtField cmd) = field cmd[0] 13 8 := formatCode_formatOfCode _

@[simp] theorem atBit_flag (v : Word) (n : Nat) : atBit (flag v n) n = field v n n * 2 ^ n := by
  have h := field_lt v n n
  rw [Nat.add_sub_cancel_left] at h
  have hbit : field v n n = 0 ∨ field v n n = 1 := by omega
  rcases hbit with hbit | hbit <;> simp [atBit, flag, hbit]

theorem depthCode_of_depthOfCode {n : Nat} {d : Depth} (h : depthOfCode n = some d) : depthCode d = n := by
  unfold depthOfCode at h
  split at h <;> cases h <;> rfl

@[simp] theorem quadrantCode_quadrantOfCode_field (v : Word) :
    quadrantCode (quadrantOfCode (field v 31 30)) = field v 31 30 := by
  have h := field_lt v 31 30
  interval_cases field v 31 30 <;> rfl

theorem encodeLinePair_of_row {w0 : Nat} (row : MeetsRow op u 6 cmd) (h0 : w0 = operand cmd 0) :
    encodeLinePair w0 (linePairOf cmd) = cmd := by
  refine Eq.trans ?_ (commandOfNats_operands cmd)
  simp (disch := decide) only [encodeLinePair, linePairOf, h0, operand_eq_zero row]

theorem encodeView_of_row (row : MeetsRow op viewUnused 8 cmd) :
    encodeView op (fmtField cmd) (flag cmd[0] 21) (viewArgsOf cmd) = cmd := by
  refine Eq.trans ?_ (commandOfNats_operands cmd)
  simp (disch := decide) [encodeView, viewArgsOf, rasterSizeAt, operand_zero_eq_fields, row.op_eq,
    field_eq_zero_of_row row, operand_eq_zero row]

theorem encodeQuad_of_row (row : MeetsRow op quadUnused 6 cmd) :
    encodeQuad op (quadrantOfCode (field cmd[0] 31 30)) (quadArgsOf cmd) = cmd := by
  refine Eq.trans ?_ (commandOfNats_operands cmd)
  simp (disch := decide) [encodeQuad, quadArgsOf, operand_zero_eq_fields, row.op_eq, field_eq_zero_of_row row,
    operand_eq_zero row]

theorem flag_eq_true_iff (v : Word) (n : Nat) : flag v n = true ↔ field v n n = 1 := decide_eq_true_iff

theorem flag_eq_false_iff (v : Word) (n : Nat) : flag v n = false ↔ field v n n = 0 := by
  have h := field_lt v n n
  rw [Nat.add_sub_cancel_left] at h
  rw [flag, decide_eq_false_iff_not]
  omega

theorem encodeLine_bare (row : MeetsRow op lineUnusedWithoutDescriptor 6 cmd) (hd : flag cmd[0] 20 = false) :
    encodeLine op (field cmd[0] 13 8) (lineArgsOf cmd none) = cmd := by
  refine Eq.trans ?_ (commandOfNats_operands cmd)
  simp (disch := decide) [encodeLine, lineArgsOf, operand_zero_eq_fields, row.op_eq, (flag_eq_false_iff _ _).1 hd,
    field_eq_zero_of_row row, operand_eq_zero row]

theorem encodeLine_described (row : MeetsRow op lineUnused 9 cmd) (hd : flag cmd[0] 20 = true) :
    encodeLine op (field cmd[0] 13 8) (lineArgsOf cmd (some (lineDescriptorOf cmd))) = cmd := by
  refine Eq.trans ?_ (commandOfNats_operands cmd)
  simp (disch := decide) [encodeLine, lineArgsOf, lineDescriptorOf, formatCode_formatOfCode, rasterSizeAt,
    operand_zero_eq_fields, row.op_eq, (flag_eq_true_iff _ _).1 hd, field_eq_zero_of_row row, operand_eq_zero row]

theorem encode_of_spells {i : Instr} (h : Spells cmd i) : encode i = cmd := by
  cases h with
  | geom row hfmt =>
    subst hfmt
    refine Eq.trans ?_ (commandOfNats_operands cmd)
    simp (disch := decide) [encode, operand_zero_eq_fields, row.op_eq, field_eq_zero_of_row row, operand_eq_zero row]
  | desc row hfmt hvm hr =>
    subst hfmt hvm hr
    refine Eq.trans ?_ (commandOfNats_operands cmd)
    simp (disch := decide) [encode, rasterSizeAt, operand_zero_eq_fields, row.op_eq, field_eq_zero_of_row row,
      operand_eq_zero row]
  | lineBare names row hd ha =>
    obtain ⟨-, -, hmake⟩ := names.encodes
    exact (hmake _).2.trans (ha ▸ encodeLine_bare row hd)
  | lineDescribed names row hd ha =>
    obtain ⟨-, -, hmake⟩ := names.encodes
    exact (hmake _).2.trans (ha ▸ encodeLine_described row hd)
  | cscY2R row hsd hsr hal ha4 hdep hb =>
    subst hsd hsr hal ha4 hb
    refine encodeLinePair_of_row row ?_
    simp (disch := decide) [operand_zero_eq_fields, row.op_eq, field_eq_zero_of_row row, depthCode_of_depthOfCode hdep]
  | cscR2Y row hsd hsr ha4 hdep hb =>
    subst hsd hsr ha4 hb
    refine encodeLinePair_of_row row ?_
    simp (disch := decide) [operand_zero_eq_fields, row.op_eq, field_eq_zero_of_row row, depthCode_of_depthOfCode hdep]
  | cscRDepth row ha4 hdep hdep2 hb =>
    subst ha4 hb
    refine encodeLinePair_of_row row ?_
    simp (disch := decide) [operand_zero_eq_fields, row.op_eq, field_eq_zero_of_row row, depthCode_of_depthOfCode hdep,
      depthCode_of_depthOfCode hdep2]
  | view row hfmt hvm hv => exact hfmt ▸ hvm ▸ hv ▸ encodeView_of_row row
  | cmpv row hfmt hvm hv => exact hfmt ▸ hvm ▸ hv ▸ encodeView_of_row row
  | blit row hfmt hb =>
    subst hfmt hb
    refine Eq.trans ?_ (commandOfNats_operands cmd)
    simp (disch := decide) [encode, blitArgsOf, operand_zero_eq_fields, row.op_eq, field_eq_zero_of_row row,
      operand_eq_zero row]
  | qsplit row hq ha => exact hq ▸ ha ▸ encodeQuad_of_row row
  | qmerge row hq ha => exact hq ▸ ha ▸ encodeQuad_of_row row

/-- Settles O2: the words spell what they decode to, and a spelled command is its words. -/
theorem decodeThenEncode : Obligations.DecodeThenEncode := by
  intro cmd i h
  have hspells := decode_ok_iff.1 h
  exact ⟨spells_wellFormed hspells, encode_of_spells hspells⟩

end

/-! ### Legality -/

section
variable {cmd : Command} {i : Instr}

/-- Words that spell a command meet the mask table: they are that command's words, which do. -/
theorem legal_of_spells (h : Spells cmd i) : legalCommand cmd := by
  have hwf := spells_wellFormed h
  rw [← encode_of_spells h]
  cases h with
  | lineBare names _ _ _ | lineDescribed names _ _ _ =>
    obtain ⟨hop, hcode, hmake⟩ := names.encodes
    rw [(hmake _).2]
    exact legal_encodeLine hop hcode ((hmake _).1 ▸ hwf)
  | geom => exact LegalWords.geom _ hwf
  | desc => exact LegalWords.desc _ _ _ hwf
  | cscY2R => exact LegalWords.cscY2R _ _ _ _ _ _ hwf
  | cscR2Y => exact LegalWords.cscR2Y _ _ _ _ _ hwf
  | cscRDepth => exact LegalWords.cscRDepth _ _ _ _ hwf
  | view => exact LegalWords.view _ _ _ hwf
  | cmpv => exact LegalWords.cmpv _ _ _ hwf
  | blit => exact LegalWords.blit _ _ hwf
  | qsplit => exact LegalWords.qsplit _ _ hwf
  | qmerge => exact LegalWords.qmerge _ _ hwf

theorem decode_error_of_not_legal (h : ¬ legalCommand cmd) : ∃ e, decode cmd = .error e := by
  cases hd : decode cmd with
  | error e => exact ⟨e, rfl⟩
  | ok i => exact absurd (legal_of_spells (decode_ok_iff.1 hd)) h

end

/-- Settles O4: legal words spell a command, decoding words are legal, and a `GO` write on words that do not decode fails. -/
theorem illegalCommandsFail : Obligations.IllegalCommandsFail := by
  refine fun s => ⟨fun hlegal => ?_, fun hillegal => ?_⟩
  · obtain ⟨i, hspells⟩ := spelled_of_legal hlegal
    exact ⟨i, decode_ok_iff.2 hspells⟩
  · obtain ⟨e, he⟩ := decode_error_of_not_legal hillegal
    exact ⟨⟨e, he⟩, (perform_writeReg_go s (by decide)).trans (runCommand_of_error he)⟩

end Sys2Proof.Machine
end

section
/-! ## What the encoder writes

The words of a well-formed command spell it: its row's opcode and zeros are there, and every field and operand word reads
back (30_encoding.md R80 to R88). -/

namespace Sys2Proof.Machine

open Sys2Proof.Laws

/-! ### Reading the words back -/

section
variable {w0 op first : Nat} {u : UnusedFields} {cmd : Command} (hlt : w0 < 2 ^ 32) (h0 : cmd[0] = .ofNat 32 w0)
include hlt h0

theorem meetsRow_of_word (hop : w0 % 2 ^ 8 = op) (hz : u.Forall fun f => w0 / 2 ^ f.2 % 2 ^ (f.1 + 1 - f.2) = 0)
    (hw : wordsZeroFrom first cmd = true) : MeetsRow op u first cmd where
  op_eq := by
    rw [h0, field_ofNat hlt]
    simpa using hop
  fields_zero := by
    rw [h0]
    exact fieldsZero_ofNat hlt (List.forall_iff_forall_mem.1 hz)
  words_zero := hw

theorem format_of_word {hi lo : Nat} {fmt : PixelFormat} (hwf : fmt.wf = true)
    (h : w0 / 2 ^ lo % 2 ^ (hi + 1 - lo) = formatCode fmt) : formatOfCode (field cmd[0] hi lo) = fmt := by
  rw [h0, field_ofNat hlt, h, formatOfCode_formatCode hwf]

theorem flag_of_word {n : Nat} {b : Bool} (h : w0 / 2 ^ n % 2 = b.toNat) : flag cmd[0] n = b := by
  rw [h0, flag_ofNat hlt, h]
  cases b <;> rfl

theorem depth_of_word {hi lo : Nat} {d : Depth} (h : w0 / 2 ^ lo % 2 ^ (hi + 1 - lo) = depthCode d) :
    depthOfCode (field cmd[0] hi lo) = some d := by
  rw [h0, field_ofNat hlt, h]
  cases d <;> rfl

theorem quadrant_of_word {q : Quadrant} (h : w0 / 2 ^ 30 % 2 ^ 2 = quadrantCode q) :
    quadrantOfCode (field cmd[0] 31 30) = q := by
  rw [h0, field_ofNat hlt, h]
  cases q <;> rfl

end

/-- The encoder keeps an operand that is a word; `2 ^ 32` as `simp` writes it. -/
theorem mod_of_wordOk {n : Nat} (h : wordOk n = true) : n % 4294967296 = n := Nat.mod_eq_of_lt (of_decide_eq_true h)

theorem rasterSizeAt_encode_desc {fmt : PixelFormat} {vm : Bool} {r : RasterSize} (h : r.wf = true) :
    rasterSizeAt (encode (.desc fmt vm r)) 1 2 3 = r := by
  simp only [RasterSize.wf, Bool.and_eq_true] at h
  simp [rasterSizeAt, encode, mod_of_wordOk, h]

theorem linePairOf_encodeLinePair {w0 : Nat} {b : LinePair} (h : b.wf = true) : linePairOf (encodeLinePair w0 b) = b := by
  simp only [LinePair.wf, Bool.and_eq_true] at h
  simp [linePairOf, encodeLinePair, mod_of_wordOk, h]

theorem viewArgsOf_encodeView {op : Nat} {fmt : PixelFormat} {vm : Bool} {v : ViewArgs} (h : v.wf = true) :
    viewArgsOf (encodeView op fmt vm v) = v := by
  simp only [ViewArgs.wf, RasterSize.wf, Bool.and_eq_true] at h
  simp [viewArgsOf, rasterSizeAt, encodeView, mod_of_wordOk, h]

theorem blitArgsOf_encode {fmt : PixelFormat} {b : BlitArgs} (h : b.wf = true) : blitArgsOf (encode (.blit fmt b)) = b := by
  simp only [BlitArgs.wf, Bool.and_eq_true] at h
  simp [blitArgsOf, encode, mod_of_wordOk, h]

theorem quadArgsOf_encodeQuad {op : Nat} {q : Quadrant} {a : QuadArgs} (h : a.wf = true) :
    quadArgsOf (encodeQuad op q a) = a := by
  simp only [QuadArgs.wf, Bool.and_eq_true] at h
  simp [quadArgsOf, encodeQuad, mod_of_wordOk, h]

section
variable {op code : Nat} {make : LineArgs → Instr} {a : LineArgs}

theorem lineArgsOf_encodeLine {desc : Option LineDescriptor} (h : a.wf = true) (hdesc : a.desc = desc) :
    lineArgsOf (encodeLine op code a) desc = a := by
  obtain ⟨packedAddr, packedLen, compAddr, compLen, pixelCount, d⟩ := a
  subst hdesc
  simp only [LineArgs.wf, Bool.and_eq_true] at h
  cases d <;> simp [lineArgsOf, encodeLine, mod_of_wordOk, h]

theorem rasterSizeAt_encodeLine {d : LineDescriptor} (hdesc : a.desc = some d) (h : d.size.wf = true) :
    rasterSizeAt (encodeLine op code a) 6 7 8 = d.size := by
  simp only [RasterSize.wf, Bool.and_eq_true] at h
  simp [rasterSizeAt, encodeLine, hdesc, mod_of_wordOk, h]

/-- Format L with `HD = 0` (30_encoding.md R83). -/
theorem spells_encodeLine_bare (names : LineRow op code make) (h : a.wf = true) (hbare : a.desc = none) :
    Spells (encodeLine op code a) (make a) := by
  obtain ⟨hop, hcode, -⟩ := names.encodes
  have hlt : op + code * 2 ^ 8 < 2 ^ 32 := by omega
  have h0 : (encodeLine op code a)[0] = .ofNat 32 (op + code * 2 ^ 8) := by rw [encodeLine, hbare, commandOfNats_zero]
  have hwords : wordsZeroFrom 6 (encodeLine op code a) = true := by
    rw [encodeLine, hbare]
    exact wordsZeroFrom_of (fun i => commandOfNats_get ..) (by simp)
  refine .lineBare (op := op) ?_ (meetsRow_of_word hlt h0 ?opcode ?unused hwords) (flag_of_word hlt h0 ?_)
    (lineArgsOf_encodeLine h hbare)
  · have hfmt : field (encodeLine op code a)[0] 13 8 = code := by
      rw [h0, field_ofNat hlt]
      norm_num
      omega
    rwa [hfmt]
  · omega
  · simp only [lineUnusedWithoutDescriptor, List.Forall]
    omega
  · rw [Bool.toNat_false]
    omega

/-- Format L with `HD = 1` (30_encoding.md R83). -/
theorem spells_encodeLine_described (names : LineRow op code make) (h : a.wf = true) {d : LineDescriptor}
    (hdesc : a.desc = some d) : Spells (encodeLine op code a) (make a) := by
  obtain ⟨hop, hcode, -⟩ := names.encodes
  have hd : d.dfmt.wf = true ∧ d.size.wf = true := by
    simp only [LineArgs.wf, LineDescriptor.wf, hdesc, Option.all_some, Bool.and_eq_true] at h
    exact h.2
  have hdfmt := formatCode_lt hd.1
  have hvm := Bool.toNat_lt d.vm
  have hlt : op + code * 2 ^ 8 + formatCode d.dfmt * 2 ^ 14 + 2 ^ 20 + atBit d.vm 21 < 2 ^ 32 := by
    unfold atBit
    omega
  have h0 : (encodeLine op code a)[0] =
      .ofNat 32 (op + code * 2 ^ 8 + formatCode d.dfmt * 2 ^ 14 + 2 ^ 20 + atBit d.vm 21) := by
    rw [encodeLine, hdesc, commandOfNats_zero]
  have hwords : wordsZeroFrom 9 (encodeLine op code a) = true := by
    rw [encodeLine, hdesc]
    exact wordsZeroFrom_of (fun i => commandOfNats_get ..) (by simp)
  have hlineDesc : lineDescriptorOf (encodeLine op code a) = d := by
    have hdfmt_eq : formatOfCode (field (encodeLine op code a)[0] 19 14) = d.dfmt :=
      format_of_word hlt h0 hd.1 (by unfold atBit; omega)
    have hvm_eq : flag (encodeLine op code a)[0] 21 = d.vm := flag_of_word hlt h0 (by unfold atBit; omega)
    rw [lineDescriptorOf, hdfmt_eq, hvm_eq, rasterSizeAt_encodeLine hdesc hd.2]
  refine .lineDescribed (op := op) ?_ (meetsRow_of_word hlt h0 ?opcode ?unused hwords) (flag_of_word hlt h0 ?_)
    (lineArgsOf_encodeLine h (hlineDesc ▸ hdesc))
  · have hfmt : field (encodeLine op code a)[0] 13 8 = code := by
      rw [h0, field_ofNat hlt, atBit]
      norm_num
      omega
    rwa [hfmt]
  · unfold atBit
    omega
  · simp only [lineUnused, atBit, List.Forall]
    omega
  · rw [Bool.toNat_true, atBit]
    omega

end

section
variable {fmt : PixelFormat} {q : Quadrant} {op : Nat}

/-- Format V (30_encoding.md R85), for both of its operations. -/
theorem encodeView_spelled {vm : Bool} {v : ViewArgs} (hop : op < 2 ^ 8) (hfmt : fmt.wf = true) (hv : v.wf = true) :
    MeetsRow op viewUnused 8 (encodeView op fmt vm v) ∧ fmtField (encodeView op fmt vm v) = fmt ∧
      flag (encodeView op fmt vm v)[0] 21 = vm ∧ viewArgsOf (encodeView op fmt vm v) = v := by
  have hcode := formatCode_lt hfmt
  have hvm := Bool.toNat_lt vm
  have hlt : op + formatCode fmt * 2 ^ 8 + atBit vm 21 < 2 ^ 32 := by
    unfold atBit
    omega
  have h0 : (encodeView op fmt vm v)[0] = .ofNat 32 (op + formatCode fmt * 2 ^ 8 + atBit vm 21) := commandOfNats_zero ..
  have hwords : wordsZeroFrom 8 (encodeView op fmt vm v) = true :=
    wordsZeroFrom_of (fun i => commandOfNats_get ..) (by simp)
  refine ⟨meetsRow_of_word hlt h0 ?opcode ?unused hwords, format_of_word hlt h0 hfmt ?_, flag_of_word hlt h0 ?_,
    viewArgsOf_encodeView hv⟩
  case unused =>
    simp only [viewUnused, atBit, List.Forall]
    omega
  all_goals
    unfold atBit
    omega

/-- Format Q (30_encoding.md R87), for both of its operations. -/
theorem encodeQuad_spelled {a : QuadArgs} (hop : op < 2 ^ 8) (ha : a.wf = true) :
    MeetsRow op quadUnused 6 (encodeQuad op q a) ∧ quadrantOfCode (field (encodeQuad op q a)[0] 31 30) = q ∧
      quadArgsOf (encodeQuad op q a) = a := by
  have hq := quadrantCode_lt q
  have hlt : op + quadrantCode q * 2 ^ 30 < 2 ^ 32 := by omega
  have h0 : (encodeQuad op q a)[0] = .ofNat 32 (op + quadrantCode q * 2 ^ 30) := commandOfNats_zero ..
  have hwords : wordsZeroFrom 6 (encodeQuad op q a) = true :=
    wordsZeroFrom_of (fun i => commandOfNats_get ..) (by simp)
  refine ⟨meetsRow_of_word hlt h0 ?opcode ?unused hwords, quadrant_of_word hlt h0 ?_, quadArgsOf_encodeQuad ha⟩
  · omega
  · simp only [quadUnused, List.Forall]
    omega
  · omega

end

theorem spells_encode_geom {fmt : PixelFormat} (h : fmt.wf = true) : Spells (encode (.geom fmt)) (.geom fmt) := by
  have hcode := formatCode_lt h
  have hlt : 0x01 + formatCode fmt * 2 ^ 8 < 2 ^ 32 := by omega
  have h0 : (encode (.geom fmt))[0] = .ofNat 32 (0x01 + formatCode fmt * 2 ^ 8) := commandOfNats_zero ..
  have hwords : wordsZeroFrom 1 (encode (.geom fmt)) = true := wordsZeroFrom_of (fun i => commandOfNats_get ..) (by simp)
  refine .geom (meetsRow_of_word hlt h0 ?opcode ?unused hwords) (format_of_word hlt h0 h ?_)
  · omega
  · simp only [geomUnused, List.Forall]
    omega
  · omega

theorem spells_encode_desc {fmt : PixelFormat} {vm : Bool} {r : RasterSize} (h : fmt.wf = true) (hr : r.wf = true) :
    Spells (encode (.desc fmt vm r)) (.desc fmt vm r) := by
  have hcode := formatCode_lt h
  have hvm := Bool.toNat_lt vm
  have hlt : 0x02 + formatCode fmt * 2 ^ 8 + atBit vm 21 < 2 ^ 32 := by
    unfold atBit
    omega
  have h0 : (encode (.desc fmt vm r))[0] = .ofNat 32 (0x02 + formatCode fmt * 2 ^ 8 + atBit vm 21) := commandOfNats_zero ..
  have hwords : wordsZeroFrom 4 (encode (.desc fmt vm r)) = true :=
    wordsZeroFrom_of (fun i => commandOfNats_get ..) (by simp)
  refine .desc (meetsRow_of_word hlt h0 ?opcode ?unused hwords) (format_of_word hlt h0 h ?_) (flag_of_word hlt h0 ?_)
    (rasterSizeAt_encode_desc hr)
  case unused =>
    simp only [descUnused, atBit, List.Forall]
    omega
  all_goals
    unfold atBit
    omega

theorem spells_encode_blit {fmt : PixelFormat} {b : BlitArgs} (h : fmt.wf = true) (hb : b.wf = true) :
    Spells (encode (.blit fmt b)) (.blit fmt b) := by
  have hcode := formatCode_lt h
  have hlt : 0x40 + formatCode fmt * 2 ^ 8 < 2 ^ 32 := by omega
  have h0 : (encode (.blit fmt b))[0] = .ofNat 32 (0x40 + formatCode fmt * 2 ^ 8) := commandOfNats_zero ..
  have hwords : wordsZeroFrom 13 (encode (.blit fmt b)) = true :=
    wordsZeroFrom_of (fun i => commandOfNats_get ..) (by simp)
  refine .blit (meetsRow_of_word hlt h0 ?opcode ?unused hwords) (format_of_word hlt h0 h ?_) (blitArgsOf_encode hb)
  · omega
  · simp only [blitUnused, List.Forall]
    omega
  · omega

section
variable {sd sr al a4 : Bool} {dep dep2 : Depth} {b : LinePair}

theorem wordsZeroFrom_encodeLinePair (w0 : Nat) (b : LinePair) : wordsZeroFrom 6 (encodeLinePair w0 b) = true :=
  wordsZeroFrom_of (fun i => commandOfNats_get ..) (by simp)

theorem spells_encode_cscY2R (h : b.wf = true) :
    Spells (encode (.cscY2R sd sr al a4 dep b)) (.cscY2R sd sr al a4 dep b) := by
  have hsd := Bool.toNat_lt sd
  have hsr := Bool.toNat_lt sr
  have hal := Bool.toNat_lt al
  have ha4 := Bool.toNat_lt a4
  have hdep := depthCode_lt dep
  have hlt : 0x20 + atBit sd 22 + atBit sr 23 + atBit al 24 + atBit a4 25 + depthCode dep * 2 ^ 26 < 2 ^ 32 := by
    unfold atBit
    omega
  have h0 : (encode (.cscY2R sd sr al a4 dep b))[0] =
      .ofNat 32 (0x20 + atBit sd 22 + atBit sr 23 + atBit al 24 + atBit a4 25 + depthCode dep * 2 ^ 26) :=
    commandOfNats_zero ..
  refine .cscY2R (meetsRow_of_word hlt h0 ?opcode ?unused (wordsZeroFrom_encodeLinePair ..)) (flag_of_word hlt h0 ?_)
    (flag_of_word hlt h0 ?_) (flag_of_word hlt h0 ?_) (flag_of_word hlt h0 ?_) (depth_of_word hlt h0 ?_)
    (linePairOf_encodeLinePair h)
  case unused =>
    simp only [y2rUnused, atBit, List.Forall]
    omega
  all_goals
    unfold atBit
    omega

theorem spells_encode_cscR2Y (h : b.wf = true) : Spells (encode (.cscR2Y sd sr a4 dep b)) (.cscR2Y sd sr a4 dep b) := by
  have hsd := Bool.toNat_lt sd
  have hsr := Bool.toNat_lt sr
  have ha4 := Bool.toNat_lt a4
  have hdep := depthCode_lt dep
  have hlt : 0x21 + atBit sd 22 + atBit sr 23 + atBit a4 25 + depthCode dep * 2 ^ 26 < 2 ^ 32 := by
    unfold atBit
    omega
  have h0 : (encode (.cscR2Y sd sr a4 dep b))[0] =
      .ofNat 32 (0x21 + atBit sd 22 + atBit sr 23 + atBit a4 25 + depthCode dep * 2 ^ 26) := commandOfNats_zero ..
  refine .cscR2Y (meetsRow_of_word hlt h0 ?opcode ?unused (wordsZeroFrom_encodeLinePair ..)) (flag_of_word hlt h0 ?_)
    (flag_of_word hlt h0 ?_) (flag_of_word hlt h0 ?_) (depth_of_word hlt h0 ?_) (linePairOf_encodeLinePair h)
  case unused =>
    simp only [r2yUnused, atBit, List.Forall]
    omega
  all_goals
    unfold atBit
    omega

theorem spells_encode_cscRDepth (h : b.wf = true) :
    Spells (encode (.cscRDepth a4 dep dep2 b)) (.cscRDepth a4 dep dep2 b) := by
  have ha4 := Bool.toNat_lt a4
  have hdep := depthCode_lt dep
  have hdep2 := depthCode_lt dep2
  have hlt : 0x22 + atBit a4 25 + depthCode dep * 2 ^ 26 + depthCode dep2 * 2 ^ 28 < 2 ^ 32 := by
    unfold atBit
    omega
  have h0 : (encode (.cscRDepth a4 dep dep2 b))[0] =
      .ofNat 32 (0x22 + atBit a4 25 + depthCode dep * 2 ^ 26 + depthCode dep2 * 2 ^ 28) := commandOfNats_zero ..
  refine .cscRDepth (meetsRow_of_word hlt h0 ?opcode ?unused (wordsZeroFrom_encodeLinePair ..)) (flag_of_word hlt h0 ?_)
    (depth_of_word hlt h0 ?_) (depth_of_word hlt h0 ?_) (linePairOf_encodeLinePair h)
  case unused =>
    simp only [rdepthUnused, atBit, List.Forall]
    omega
  all_goals
    unfold atBit
    omega

end

theorem spells_encodeLine {op code : Nat} {make : LineArgs → Instr} (names : LineRow op code make) {a : LineArgs}
    (h : a.wf = true) : Spells (encodeLine op code a) (make a) := by
  cases hdesc : a.desc with
  | none => exact spells_encodeLine_bare names h hdesc
  | some d => exact spells_encodeLine_described names h hdesc

/-- The words of a well-formed command spell it. -/
theorem spells_encode {i : Instr} (h : WellFormed i) : Spells (encode i) i := by
  cases i with
  | geom fmt => exact spells_encode_geom h
  | desc fmt vm r =>
    obtain ⟨hfmt, hr⟩ := (Bool.and_eq_true _ _).mp h
    exact spells_encode_desc hfmt hr
  | cscY2R sd sr al a4 dep b => exact spells_encode_cscY2R h
  | cscR2Y sd sr a4 dep b => exact spells_encode_cscR2Y h
  | cscRDepth a4 dep dep2 b => exact spells_encode_cscRDepth h
  | view fmt vm v =>
    obtain ⟨hfmt, hv⟩ := (Bool.and_eq_true _ _).mp h
    obtain ⟨row, hfmt, hvm, hargs⟩ := encodeView_spelled (op := 0x30) (by decide) hfmt hv
    exact .view row hfmt hvm hargs
  | cmpv fmt vm v =>
    obtain ⟨hfmt, hv⟩ := (Bool.and_eq_true _ _).mp h
    obtain ⟨row, hfmt, hvm, hargs⟩ := encodeView_spelled (op := 0x31) (by decide) hfmt hv
    exact .cmpv row hfmt hvm hargs
  | blit fmt b =>
    obtain ⟨hfmt, hb⟩ := (Bool.and_eq_true _ _).mp h
    exact spells_encode_blit hfmt hb
  | qsplit q a =>
    obtain ⟨row, hq, ha⟩ := encodeQuad_spelled (op := 0x41) (by decide) h
    exact .qsplit row hq ha
  | qmerge q a =>
    obtain ⟨row, hq, ha⟩ := encodeQuad_spelled (op := 0x42) (by decide) h
    exact .qmerge row hq ha
  | _ => exact spells_encodeLine (by constructor; rfl) h

/-- Settles O1: the words of a well-formed command spell it, and the decoder answers what the words spell. -/
theorem encodeThenDecode : Obligations.EncodeThenDecode := fun _ h => decode_ok_iff.2 (spells_encode h)

end Sys2Proof.Machine
end

section
/-! ## The operations of the catalog

What a command comes to whose effect writes no memory, and from it what `GEOM` and `DESC` answer
(40_catalog_descriptor.md R121, R122, R129). -/

namespace Sys2Proof.Machine

section
variable {i : Instr} {s : State}

theorem exec_of_effect_done {status : Word} {res : Vector Word 12} (h : effectOf i s = .done status res [] 0) :
    exec i s = .next { s with status := status, res := res } := by
  rw [exec_eq_complete, h]
  rfl

theorem exec_of_effect_failed {code : FailCode} (h : effectOf i s = .failed code .notMade) :
    exec i s = .next (failedWith s (failNumber code)) := by
  rw [exec_eq_complete, h, complete, raiseFail_eq]

end

theorem exec_geom (fmt : PixelFormat) (s : State) :
    exec (.geom fmt) s = .next { s with
      status := 0x001
      res := resultWords [(elementGeometry fmt).bytesPerElement, (elementGeometry fmt).componentsPerElement,
        (elementGeometry fmt).rasterPixelsPerElement, planeCount fmt] } := by
  rw [← statusDone_eq, ← resultsOf_eq]
  exact exec_of_effect_done rfl

section
variable {fmt : PixelFormat} {vm : Bool} {r : RasterSize}

theorem exec_desc_of_large (h : ∃ v ∈ descriptorFields (mkDesc fmt r vm), 2 ^ 32 ≤ v) (s : State) :
    exec (.desc fmt vm r) s = .next (failedWith s 3) :=
  exec_of_effect_failed (code := .badGeometry) (if_pos h)

theorem exec_desc_of_fits (h : ∀ v ∈ descriptorFields (mkDesc fmt r vm), v < 2 ^ 32) (s : State) :
    exec (.desc fmt vm r) s = .next { s with
      status := statusDescribed (mkDesc fmt r vm).valid
      res := resultWords (descriptorResults (mkDesc fmt r vm)) } := by
  have hfits : ¬ ∃ v ∈ descriptorFields (mkDesc fmt r vm), 2 ^ 32 ≤ v := by
    rintro ⟨v, hv, hlarge⟩
    exact Nat.not_lt.2 hlarge (h v hv)
  rw [← resultsOf_eq]
  exact exec_of_effect_done (if_neg hfits)

end

theorem failBit_statusDescribed (valid : Bool) : failBit (statusDescribed valid) = false :=
  failBit_statusWord _ _ _ _ (by decide)

/-- Settles O23: whether a field is too large is the one test that `DESC` makes. -/
theorem desc : Obligations.Desc := by
  intro fmt vm r s
  refine ⟨fun h => exec_desc_of_large h s, fun h => ?_⟩
  rw [← statusDescribed_eq]
  exact exec_desc_of_fits h s

end Sys2Proof.Machine
end

section
/-! ## The catalog by format codes

What each function of the catalog answers for the format of a code (40_catalog_descriptor.md R120, R121, R125, R126,
R128). The codes from 13 on have no name and one row of the table between them. -/

namespace Sys2Proof.Machine

theorem geometryNumbers_formatOfCode : ∀ n,
    [(elementGeometry (formatOfCode n)).bytesPerElement, (elementGeometry (formatOfCode n)).componentsPerElement,
      (elementGeometry (formatOfCode n)).rasterPixelsPerElement, planeCount (formatOfCode n)] =
    [[16, 12, 6, 1], [16, 12, 6, 1], [4, 4, 2, 1], [3, 3, 1, 1], [4, 4, 1, 1], [6, 3, 1, 1], [4, 4, 1, 1], [4, 4, 1, 1],
      [0, 0, 0, 0], [20, 16, 16, 2], [4, 4, 2, 3], [4, 4, 2, 3]].getD n [0, 0, 0, 0]
  | 0 | 1 | 2 | 3 | 4 | 5 | 6 | 7 | 8 | 9 | 10 | 11 | 12 | _ + 13 => rfl

theorem planeCount_formatOfCode : ∀ n, planeCount (formatOfCode n) = [1, 1, 1, 1, 1, 1, 1, 1, 0, 2, 3, 3].getD n 0
  | 0 | 1 | 2 | 3 | 4 | 5 | 6 | 7 | 8 | 9 | 10 | 11 | 12 | _ + 13 => rfl

theorem rowPitch0_formatOfCode (w : Nat) : ∀ n, rowPitch0 (formatOfCode n) w =
    [(w + 47) / 48 * 128, (w + 47) / 48 * 128, 2 * w, 3 * w, 4 * w, 6 * w, 4 * w, 4 * w, 0, 20 * w / 16,
      2 * (w / 2), 2 * (w / 2)].getD n 0
  | 0 | 1 | 2 | 3 | 4 | 5 | 6 | 7 | 8 | 9 | 10 | 11 | 12 | _ + 13 => rfl

theorem rowPitch1_formatOfCode (w : Nat) : ∀ n, rowPitch1 (formatOfCode n) w =
    if n = 9 then rowPitch0 (formatOfCode n) w else if n = 10 ∨ n = 11 then w / 2 else 0
  | 0 | 1 | 2 | 3 | 4 | 5 | 6 | 7 | 8 | 9 | 10 | 11 | 12 | _ + 13 => rfl

theorem rowPitch2_formatOfCode (w : Nat) : ∀ n, rowPitch2 (formatOfCode n) w = if n = 10 ∨ n = 11 then w / 2 else 0
  | 0 | 1 | 2 | 3 | 4 | 5 | 6 | 7 | 8 | 9 | 10 | 11 | 12 | _ + 13 => rfl

theorem planeLines_formatOfCode (h : Nat) : ∀ n, planeLines (formatOfCode n) h =
    (if n < 8 ∨ n = 9 ∨ n = 10 ∨ n = 11 then h else 0, if n = 9 ∨ n = 11 then h / 2 else if n = 10 then h else 0,
      if n = 11 then h / 2 else if n = 10 then h else 0)
  | 0 | 1 | 2 | 3 | 4 | 5 | 6 | 7 | 8 | 9 | 10 | 11 | 12 | _ + 13 => rfl

theorem is420_formatOfCode : ∀ n, is420 (formatOfCode n) = decide (n = 9 ∨ n = 11)
  | 0 | 1 | 2 | 3 | 4 | 5 | 6 | 7 | 8 | 9 | 10 | 11 | 12 | _ + 13 => rfl

theorem decide_isModelled_formatOfCode : ∀ n,
    decide (isModelled (formatOfCode n)) = decide (n < 8 ∨ n = 9 ∨ n = 10 ∨ n = 11)
  | 0 | 1 | 2 | 3 | 4 | 5 | 6 | 7 | 8 | 9 | 10 | 11 | 12 | _ + 13 => rfl

theorem isModelled_formatOfCode (n : Nat) : isModelled (formatOfCode n) ↔ n < 8 ∨ n = 9 ∨ n = 10 ∨ n = 11 :=
  decide_eq_decide.1 (decide_isModelled_formatOfCode n)

/-- Settles O22: the four results of `GEOM` are the row of the code in the catalog. -/
theorem geom : Obligations.Geom := by
  intro n _ s
  rw [exec_geom, geometryNumbers_formatOfCode]

theorem mkDesc_valid_iff (n : Nat) (r : RasterSize) (vm : Bool) :
    (mkDesc (formatOfCode n) r vm).valid = true ↔ (n < 8 ∨ n = 9 ∨ n = 10 ∨ n = 11) ∧
      0 < rowPitch0 (formatOfCode n) r.width ∧ 0 < fullHeight r vm ∧ (n = 9 ∨ n = 11 → fullHeight r vm % 2 = 0) := by
  calc (mkDesc (formatOfCode n) r vm).valid = true
      ↔ isModelled (formatOfCode n) ∧ 0 < rowPitch0 (formatOfCode n) r.width ∧ 0 < fullHeight r vm ∧
          (is420 (formatOfCode n) = true → fullHeight r vm % 2 = 0) := decide_eq_true_iff
    _ ↔ _ := by rw [isModelled_formatOfCode, is420_formatOfCode, decide_eq_true_iff]

/-- Settles O24: a field that depends on the format is the catalog's function of the code's format, the others are the
definition's own. (The model's list of the fields has the shorter name.) -/
theorem Catalog.descriptorFields : Obligations.DescriptorFields := by
  intro n _ r vm
  have hlines := planeLines_formatOfCode (fullHeight r vm) n
  exact ⟨⟨rfl, rfl, rfl, rfl⟩, planeCount_formatOfCode n, rowPitch0_formatOfCode r.width n, rowPitch1_formatOfCode r.width n,
    rowPitch2_formatOfCode r.width n, congrArg (·.1) hlines, congrArg (·.2.1) hlines, congrArg (·.2.2) hlines, rfl,
    mkDesc_valid_iff n r vm⟩

end Sys2Proof.Machine
end

section
/-! ## The row-byte formula

How the row pitch grows with the width (40_catalog_descriptor.md R131) and which elements it holds whole (R130). -/

namespace Sys2Proof.Machine

theorem rowPitch0_mono (fmt : PixelFormat) {w w' : Nat} (h : w ≤ w') : rowPitch0 fmt w ≤ rowPitch0 fmt w' := by
  cases fmt with
  | y10p | y10pBE => exact Nat.mul_le_mul_right _ (Nat.div_le_div_right (Nat.add_le_add_right h _))
  | y8p | rgb24 | rgba32 | rgb48 | rgb10p | rgb10pBE => exact Nat.mul_le_mul_left _ h
  | y10_420pl2 => exact Nat.div_le_div_right (Nat.mul_le_mul_left _ h)
  | y8_422pl3 | y8_420pl3 => exact Nat.mul_le_mul_left _ (Nat.div_le_div_right h)
  | rgb12p | compressed | unassigned => exact Nat.le_refl _

theorem rowPitch0_zero (fmt : PixelFormat) : rowPitch0 fmt 0 = 0 := by cases fmt <;> rfl

/-- But for the 3-plane formats, a row of a modelled format has at least a byte a pixel. -/
theorem le_rowPitch0 {fmt : PixelFormat} (h : planeCount fmt = 1 ∨ planeCount fmt = 2) (w : Nat) : w ≤ rowPitch0 fmt w := by
  cases fmt with
  | y10p | y10pBE | y8p | rgb24 | rgba32 | rgb48 | rgb10p | rgb10pBE | y10_420pl2 =>
    simp only [rowPitch0]
    omega
  | y8_422pl3 | y8_420pl3 | rgb12p | compressed | unassigned => simp [planeCount] at h

theorem rowPitch0_eq_zero_iff {fmt : PixelFormat} (h : planeCount fmt = 1 ∨ planeCount fmt = 2) (w : Nat) :
    rowPitch0 fmt w = 0 ↔ w = 0 := by
  constructor
  · intro hp
    exact Nat.le_zero.1 (hp ▸ le_rowPitch0 h w)
  · rintro rfl
    exact rowPitch0_zero fmt

/-- A row of a 3-plane format has two luma bytes for each whole pair of pixels. -/
theorem rowPitch0_threePlane {fmt : PixelFormat} (h : planeCount fmt = 3) (w : Nat) : rowPitch0 fmt w = 2 * (w / 2) := by
  cases fmt with
  | y8_422pl3 | y8_420pl3 => rfl
  | _ => cases h

theorem rowPitch0_unmodelled {fmt : PixelFormat} (h : planeCount fmt = 0) (w : Nat) : rowPitch0 fmt w = 0 := by
  cases fmt with
  | rgb12p | compressed | unassigned => rfl
  | _ => cases h

/-- A row of a single-plane format other than `Y8P` is whole elements. -/
theorem bytesPerElement_dvd_rowPitch0 {fmt : PixelFormat} (h : planeCount fmt = 1) (h8 : fmt ≠ .y8p) (w : Nat) :
    (elementGeometry fmt).bytesPerElement ∣ rowPitch0 fmt w := by
  cases fmt with
  | y10p | y10pBE => exact Dvd.dvd.mul_left (show 16 ∣ 128 by decide) _
  | y8p => exact absurd rfl h8
  | rgb24 | rgba32 | rgb48 | rgb10p | rgb10pBE => exact Nat.dvd_mul_right _ w
  | _ => cases h

/-- `Y8P` has four bytes for two pixels (90_conflicts.md C4), so half an element is left over at an odd width. -/
theorem rowPitch0_y8p_mod (w : Nat) : rowPitch0 .y8p w % 4 = 0 ↔ w % 2 = 0 := by
  rw [rowPitch0]
  omega

/-! ### The planes of each code -/

theorem planeCount_eq_one {n : Nat} (h : n < 8) : planeCount (formatOfCode n) = 1 := by
  interval_cases n <;> rfl

theorem planeCount_eq_three {n : Nat} (h : n = 10 ∨ n = 11) : planeCount (formatOfCode n) = 3 := by
  rcases h with rfl | rfl <;> rfl

theorem planeCount_eq_zero {n : Nat} (h : n = 8 ∨ 12 ≤ n) : planeCount (formatOfCode n) = 0 := by
  rw [planeCount_formatOfCode]
  rcases h with rfl | h
  · rfl
  · exact List.getD_eq_default _ _ h

/-- Settles O25, format by format, by the number of planes. -/
theorem rowBytesMonotone : Obligations.RowBytesMonotone := by
  refine ⟨fun n _ w w' h => rowPitch0_mono _ h, fun n _ hn w => rowPitch0_eq_zero_iff ?_ w, fun n _ hn w => ?_,
    fun n _ hn w => rowPitch0_unmodelled (planeCount_eq_zero hn) w, rfl, rfl, rfl⟩
  · rcases hn with hn | rfl
    · exact .inl (planeCount_eq_one hn)
    · exact .inr rfl
  · rw [rowPitch0_threePlane (planeCount_eq_three hn)]
    omega

end Sys2Proof.Machine
end

section
/-! ## A raster whose pitch is not whole elements

The view operations refuse it (40_catalog_descriptor.md R130, 43_component_reader.md R228), `DESC` describes it. -/

namespace Sys2Proof.Machine

section
variable {fmt : PixelFormat} {vm : Bool} {v : ViewArgs}

theorem exec_view_badGeometry (ha : v.aAddr ≠ 0) (hb : v.bAddr ≠ 0) (hm : isModelled fmt)
    (hg : ¬ viewGeometryPasses fmt (mkDesc fmt v.size vm)) (s : State) :
    exec (.view fmt vm v) s = .next (failedWith s 3) := by
  have hnull : ¬ (isNull v.aAddr ∨ isNull v.bAddr) := not_or.2 ⟨ha, hb⟩
  have heffect : effectView fmt vm v s = .failed .badGeometry .notMade := by
    simp only [effectView, viewOpFailure, if_neg hnull, viewFailure_geometry ha hm hg]
  exact exec_of_effect_failed (i := .view fmt vm v) heffect

theorem exec_cmpv_badGeometry (ha : v.aAddr ≠ 0) (hb : v.bAddr ≠ 0) (hm : isModelled fmt)
    (hg : ¬ viewGeometryPasses fmt (mkDesc fmt v.size vm)) (s : State) :
    exec (.cmpv fmt vm v) s = .next (failedWith s 3) := by
  have hnull : ¬ (isNull v.aAddr ∨ isNull v.bAddr) := not_or.2 ⟨ha, hb⟩
  have heffect : effectCmpv fmt vm v s = .failed .badGeometry .notMade := by
    simp only [effectCmpv, if_neg hnull, if_neg (not_not.2 hm), viewFailure_geometry ha hm hg]
  exact exec_of_effect_failed (i := .cmpv fmt vm v) heffect

end

theorem y8p_odd_geometry {r : RasterSize} (h : r.width % 2 = 1) (vm : Bool) :
    ¬ viewGeometryPasses .y8p (mkDesc .y8p r vm) := by
  rintro ⟨-, hpitch⟩
  have heven : r.width % 2 = 0 := (rowPitch0_y8p_mod r.width).1 (hpitch rfl)
  omega

/-- Settles O26: at an odd width the pitch of `Y8P` leaves half an element over, which the view operations check. -/
theorem pitchInvariant : Obligations.PitchInvariant := by
  refine ⟨fun n hn h2 w => ?_, rowPitch0_y8p_mod, fun vm v s ha hb hodd => ⟨?_, ?_, fun hfits => ?_⟩⟩
  · have h8 : formatOfCode n ≠ .y8p := fun hf => h2 (formatCode_formatOfCode n ▸ congrArg formatCode hf)
    exact Nat.mod_eq_zero_of_dvd (bytesPerElement_dvd_rowPitch0 (planeCount_eq_one hn) h8 w)
  · exact exec_view_badGeometry ha hb (by decide) (y8p_odd_geometry hodd vm) s
  · exact exec_cmpv_badGeometry ha hb (by decide) (y8p_odd_geometry hodd vm) s
  · exact ⟨_, exec_desc_of_fits hfits s, failBit_statusDescribed _⟩

end Sys2Proof.Machine
end

section
/-! ## The rows of the line codec

Each row's command word, and the 110 rows without a codec (41_line_codec.md R150, R171). -/

namespace Sys2Proof.Machine

/-- Bits 13:0 of the first word of a row of the line codec: its opcode and its format's code (30_encoding.md R83, R88). -/
theorem LineRow.low {op code : Nat} {make : LineArgs → Instr} (h : LineRow op code make) (a : LineArgs) :
    (encode (make a))[0] &&& 0x3FFF#32 = .ofNat 32 (op + code * 256) := by
  obtain ⟨hop, hcode, hmake⟩ := h.encodes
  rw [(hmake a).2]
  exact encodeLine_low (by omega) hcode a

/-- The PixelFormat codes without a line codec (41_line_codec.md R171). -/
def uncodedCodes : List Nat := 8 :: List.range' 10 54

theorem uncodedRows_unpack : (uncodedRows.take 55).map some = uncodedCodes.map unpackOfCode := by rfl

theorem uncodedRows_pack : (uncodedRows.drop 55).map some = uncodedCodes.map packOfCode := by rfl

theorem hasLineCodec_of_uncoded :
    ∀ code ∈ uncodedCodes, hasLineCodec (formatOfCode code) = false := by decide

/-- The rows with a codec drop out, and the others all have one meaning. -/
theorem LineRow.effect_uncoded {op code : Nat} {make : LineArgs → Instr} (h : LineRow op code make)
    (hc : hasLineCodec (formatOfCode code) = false) (a : LineArgs) (s : State) :
    effectOf (make a) s = uncodedEffect (formatOfCode code) a := by
  cases h with
  | unpack h =>
    unfold unpackOfCode at h
    split at h <;> cases h <;> try cases hc
    all_goals rfl
  | pack h =>
    unfold packOfCode at h
    split at h <;> cases h <;> try cases hc
    all_goals rfl

theorem lineRow_of_uncodedRows {make : LineArgs → Instr} (h : make ∈ uncodedRows) :
    ∃ op, ∃ code ∈ uncodedCodes, LineRow op code make := by
  rw [← List.take_append_drop 55 uncodedRows, List.mem_append] at h
  rcases h with h | h
  · obtain ⟨code, hmem, hrow⟩ := List.mem_map.1 (uncodedRows_unpack ▸ List.mem_map_of_mem h)
    exact ⟨0x10, code, hmem, .unpack hrow⟩
  · obtain ⟨code, hmem, hrow⟩ := List.mem_map.1 (uncodedRows_pack ▸ List.mem_map_of_mem h)
    exact ⟨0x11, code, hmem, .pack hrow⟩

/-- Settles O27: a row without a codec makes its null check, and fails whatever that finds. -/
theorem rowsWithoutCodec : Obligations.RowsWithoutCodec := by
  intro make hmake a s
  obtain ⟨op, code, hcode, row⟩ := lineRow_of_uncodedRows hmake
  have hc := hasLineCodec_of_uncoded code hcode
  obtain ⟨hnull, hnot⟩ := lineFailure_uncoded hc a
  have heffect := row.effect_uncoded hc a s
  exact ⟨fun h => exec_of_effect_failed (heffect.trans (hnull h)),
    fun h1 h2 => exec_of_effect_failed (heffect.trans (hnot h1 h2))⟩

end Sys2Proof.Machine
end

section
/-! ## One group of a format with a codec

What ties a format's `UNPACK` of a group to its `PACK` (41_line_codec.md R150, R172, R173): each of the nine formats meets
`GroupCodec`, from which the loops over a line follow without looking at the format again. -/

namespace Sys2Proof.Machine

/-! ### Bytes that lie in memory -/

/-- The bytes `bs` lie in memory from `a` on. -/
def Lies (m : Memory) (a : Nat) (bs : List Byte) : Prop := ∀ j < bs.length, some (memByte m (a + j)) = bs[j]?

/-- Two memories hold the same `n` bytes, each from its own address on. -/
abbrev SameBytes (n : Nat) (m : Memory) (a : Nat) (m' : Memory) (a' : Nat) : Prop :=
  ∀ i < n, memByte m (a + i) = memByte m' (a' + i)

theorem Lies.sameBytes {m m' : Memory} {a a' n : Nat} {bs : List Byte} (h : Lies m a bs) (h' : Lies m' a' bs)
    (hn : bs.length = n) : SameBytes n m a m' a' := fun i hi =>
  Option.some.inj ((h i (hn ▸ hi)).trans (h' i (hn ▸ hi)).symm)

/-- The bytes that a `PACK` rule gives for a group's cells lie in memory from `a` on. -/
def PackedAt (pack : List Nat → Option (List Byte)) (cells : List Nat) (m : Memory) (a : Nat) : Prop :=
  ∃ bs, pack cells = some bs ∧ Lies m a bs

theorem PackedAt.isSome {pack : List Nat → Option (List Byte)} {cells : List Nat} {m : Memory} {a : Nat}
    (h : PackedAt pack cells m a) : (pack cells).isSome = true := by
  obtain ⟨bs, hbs, -⟩ := h
  exact Option.isSome_iff_exists.2 ⟨bs, hbs⟩

theorem PackedAt.lies {pack : List Nat → Option (List Byte)} {cells : List Nat} {m : Memory} {a : Nat} {bs : List Byte}
    (h : PackedAt pack cells m a) (hbs : pack cells = some bs) : Lies m a bs := by
  obtain ⟨bs', hbs', hlies⟩ := h
  rwa [Option.some.inj (hbs.symm.trans hbs')]

/-- The cells of one group: `n` numbers of 16 bits (41_line_codec.md R152). -/
structure GroupCells (n : Nat) (cells : List Nat) : Prop where
  length : cells.length = n
  lt : ∀ c ∈ cells, c < 2 ^ 16

/-- Lists of one length that hold the same numbers are the same. -/
theorem ext_getD {n : Nat} {xs ys : List Nat} (hx : xs.length = n) (hy : ys.length = n)
    (h : ∀ j < n, xs.getD j 0 = ys.getD j 0) : xs = ys := by
  refine List.ext_getElem (hx.trans hy.symm) fun j h1 h2 => ?_
  rw [← List.getD_eq_getElem xs 0 h1, ← List.getD_eq_getElem ys 0 h2]
  exact h j (hx ▸ h1)

/-- A format's `UNPACK` and `PACK` of one group of `gB` bytes and `gC` components: what a group unpacks to fits, `PACK` takes
the cells that fit, and each undoes the other; but a packed group that `PACK` did not write is made again only where it is
`clear`, bits that no component holds being zero in it (41_line_codec.md R172, R173). -/
structure GroupCodec (gB gC : Nat) (maximum : Nat → Nat) (group : Memory → Nat → List Nat)
    (pack : List Nat → Option (List Byte)) (clear : Memory → Nat → Prop) : Prop where
  group_length : ∀ m a, (group m a).length = gC
  group_le : ∀ m a, ∀ j < gC, (group m a).getD j 0 ≤ maximum j
  maximum_lt : ∀ j, maximum j < 2 ^ 16
  pack_isSome : ∀ {cells}, GroupCells gC cells → ((pack cells).isSome = true ↔ ∀ j < gC, cells.getD j 0 ≤ maximum j)
  pack_length : ∀ {cells bs}, pack cells = some bs → cells.length = gC → bs.length = gB
  group_of_packed : ∀ {cells m a}, GroupCells gC cells → PackedAt pack cells m a → group m a = cells
  clear_of_packed : ∀ {cells m a}, GroupCells gC cells → PackedAt pack cells m a → clear m a
  clear_congr : ∀ {m a m' a'}, SameBytes gB m a m' a' → clear m a → clear m' a'
  bytes_of_group : ∀ {m a m' a'}, group m a = group m' a' → clear m a → clear m' a' → SameBytes gB m a m' a'

/-! ### 32-bit words in either byte order -/

/-- A reader and a writer of 32-bit words in one byte order (20_memory.md R54, R55). -/
structure WordOrder (read : WordReader) (write : WordWriter) : Prop where
  length : ∀ v, (write v).length = 4
  lt : ∀ m a, read m a < 2 ^ 32
  bytes_iff : ∀ {m a m' a'}, read m a = read m' a' ↔ SameBytes 4 m a m' a'
  read_written : ∀ {m a} {xs : List Nat} {i v}, Lies m a (xs.flatMap write) → xs[i]? = some v →
    read m (a + 4 * i) = v % 2 ^ 32

theorem wordOrderLE : WordOrder readWordLE (bytesLE 4) where
  length _ := bytesLE_length 4 _
  lt m a := memRead_lt m a 4
  bytes_iff := ⟨memRead_inj, memRead_congr⟩
  read_written h hv := memRead_units rfl h hv

theorem wordOrderBE : WordOrder readWordBE (bytesBE 4) where
  length _ := bytesBE_length 4 _
  lt m a := memReadBE_lt m a 4
  bytes_iff := ⟨memReadBE_inj, memReadBE_congr⟩
  read_written h hv := memReadBE_units rfl h hv

section
variable {read : WordReader} {write : WordWriter} {cells : List Nat} {m m' : Memory} {a a' : Nat}

/-- Words of the same numbers are the same bytes. -/
theorem WordOrder.sameBytes (ho : WordOrder read write) {n : Nat}
    (h : ∀ i < n, read m (a + 4 * i) = read m' (a' + 4 * i)) : SameBytes (4 * n) m a m' a' := by
  intro i hi
  have hword := ho.bytes_iff.1 (h (i / 4) (by omega)) (i % 4) (Nat.mod_lt _ (by decide))
  rwa [Nat.add_assoc, Nat.add_assoc, Nat.div_add_mod] at hword

/-! ### `Y10P` and `Y10P_BE` -/

/-- Field `r` of three OR-ed ten-bit fields. -/
theorem bitsAt_tenBitWord {x y z r : Nat} (hx : x ≤ 0x3FF) (hy : y ≤ 0x3FF) (hz : z ≤ 0x3FF) (hr : r < 3) :
    bitsAt (x ||| y <<< 10 ||| z <<< 20) (10 * r) 10 = [x, y, z].getD r 0 := by
  rw [tenBitWord hx hy, bitsAt_eq]
  match r, hr with
  | 0, _ | 1, _ | 2, _ => simp only [List.getD_cons_zero, List.getD_cons_succ]; omega

/-- Two words with bits 31:30 zero and the same three fields are the same. -/
theorem eq_of_tenBitFields {v w : Nat} (hv : v < 2 ^ 30) (hw : w < 2 ^ 30)
    (h : ∀ r < 3, bitsAt v (10 * r) 10 = bitsAt w (10 * r) 10) : v = w := by
  have h0 := h 0 (by decide)
  have h1 := h 1 (by decide)
  have h2 := h 2 (by decide)
  simp only [bitsAt_eq] at h0 h1 h2
  omega

/-- The words of a packed group (41_line_codec.md R154, R156). -/
theorem read_packY10P (ho : WordOrder read write) (hc : GroupCells 12 cells) (h : PackedAt (packY10P write) cells m a)
    {i : Nat} (hi : i < 4) :
    read m (a + 4 * i) =
      cells.getD (3 * i) 0 ||| cells.getD (3 * i + 1) 0 <<< 10 ||| cells.getD (3 * i + 2) 0 <<< 20 := by
  have hfit := (packY10P_isSome hc.length).1 h.isSome
  rw [ho.read_written (i := i) (h.lies (packY10P_some hc.length hfit)) (by rw [List.getElem?_map, List.getElem?_range hi]; rfl)]
  have hx := hfit (3 * i) (by omega)
  have hy := hfit (3 * i + 1) (by omega)
  have hz := hfit (3 * i + 2) (by omega)
  have hlt : cells.getD (3 * i) 0 ||| cells.getD (3 * i + 1) 0 <<< 10 ||| cells.getD (3 * i + 2) 0 <<< 20 < 2 ^ 32 := by
    rw [tenBitWord hx hy]
    omega
  exact Nat.mod_eq_of_lt hlt

theorem groupY10P_of_packed (ho : WordOrder read write) (hc : GroupCells 12 cells)
    (h : PackedAt (packY10P write) cells m a) : groupY10P read m a = cells := by
  have hfit := (packY10P_isSome hc.length).1 h.isSome
  refine ext_getD (groupY10P_length ..) hc.length fun j hj => ?_
  obtain ⟨q, r, hr, hq, rfl⟩ : ∃ q r, r < 3 ∧ q < 4 ∧ j = 3 * q + r := ⟨j / 3, j % 3, by omega, by omega, by omega⟩
  have hdiv : (3 * q + r) / 3 = q := by omega
  have hmod : (3 * q + r) % 3 = r := by omega
  rw [groupY10P_getD _ _ _ hj, hdiv, hmod, read_packY10P ho hc h hq,
    bitsAt_tenBitWord (hfit _ (by omega)) (hfit _ (by omega)) (hfit _ (by omega)) hr]
  match r, hr with
  | 0, _ | 1, _ | 2, _ => rfl

/-- The bits of a `Y10P` group that no component holds, 31:30 of each of its words, are zero (41_line_codec.md R173). -/
def tenBitClear (read : WordReader) (m : Memory) (a : Nat) : Prop := ∀ i < 4, read m (a + 4 * i) < 2 ^ 30

theorem groupCodec_tenBit (ho : WordOrder read write) :
    GroupCodec 16 12 (fun _ => 0x3FF) (groupY10P read) (packY10P write) (tenBitClear read) where
  group_length m a := groupY10P_length read m a
  group_le m a j hj := by
    rw [groupY10P_getD _ _ _ hj]
    exact Nat.le_of_lt_succ (bitsAt_lt ..)
  maximum_lt _ := by decide
  pack_isSome hc := packY10P_isSome hc.length
  pack_length h _ := packY10P_length ho.length _ _ h
  group_of_packed := groupY10P_of_packed ho
  clear_of_packed {cells m a} hc h i hi := by
    have hfit := (packY10P_isSome hc.length).1 h.isSome
    have hx := hfit (3 * i) (by omega)
    have hy := hfit (3 * i + 1) (by omega)
    have hz := hfit (3 * i + 2) (by omega)
    rw [read_packY10P ho hc h hi, tenBitWord hx hy]
    omega
  clear_congr {m a m' a'} hs hclear i hi := by
    have hword : read m (a + 4 * i) = read m' (a' + 4 * i) := ho.bytes_iff.2 fun j hj => by
      rw [Nat.add_assoc, Nat.add_assoc]
      exact hs _ (by omega)
    exact hword ▸ hclear i hi
  bytes_of_group {m a m' a'} hg h h' := ho.sameBytes fun i hi => by
    refine eq_of_tenBitFields (h i hi) (h' i hi) fun r hr => ?_
    have hfield := congrArg (·.getD (3 * i + r) 0) hg
    have hdiv : (3 * i + r) / 3 = i := by omega
    have hmod : (3 * i + r) % 3 = r := by omega
    simpa only [groupY10P_getD _ _ _ (show 3 * i + r < 12 by omega), hdiv, hmod] using hfield

/-! ### `RGB10P` and `RGB10P_BE` -/

/-- The maximum of each component of a 10-bit packed-RGB word: its alpha has two bits (41_line_codec.md R166). -/
def rgbMaximum (j : Nat) : Nat := if j = 3 then 0x3 else 0x3FF

theorem rgbMaximum_bounds (hfit : ∀ j < 4, cells.getD j 0 ≤ rgbMaximum j) :
    cells.getD 0 0 ≤ 0x3FF ∧ cells.getD 1 0 ≤ 0x3FF ∧ cells.getD 2 0 ≤ 0x3FF ∧ cells.getD 3 0 ≤ 0x3 :=
  ⟨hfit 0 (by decide), hfit 1 (by decide), hfit 2 (by decide), hfit 3 (by decide)⟩

/-- The word of a packed group (41_line_codec.md R166, R168). -/
theorem read_packRGB10P (ho : WordOrder read write) (hc : GroupCells 4 cells)
    (h : PackedAt (packRGB10P write) cells m a) :
    read m a = cells.getD 0 0 <<< 22 ||| cells.getD 1 0 <<< 12 ||| cells.getD 2 0 <<< 2 ||| cells.getD 3 0 := by
  have hfit := (packRGB10P_isSome hc.length).1 h.isSome
  have hword := ho.read_written (i := 0) (h.lies (packRGB10P_some hc.length hfit)) rfl
  rw [Nat.mul_zero, Nat.add_zero] at hword
  obtain ⟨hr, hg, hb, ha⟩ := rgbMaximum_bounds hfit
  rw [hword]
  refine Nat.mod_eq_of_lt ?_
  rw [rgbWord hg hb ha]
  omega

/-- Component `j` of R, G, B and A OR-ed together. -/
theorem bitsAt_rgbWord {r g b a j : Nat} (hr : r ≤ 0x3FF) (hg : g ≤ 0x3FF) (hb : b ≤ 0x3FF) (ha : a ≤ 0x3) (hj : j < 4) :
    bitsAt (r <<< 22 ||| g <<< 12 ||| b <<< 2 ||| a) (if j = 3 then 0 else 22 - 10 * j) (if j = 3 then 2 else 10) =
      [r, g, b, a].getD j 0 := by
  rw [rgbWord hg hb ha, bitsAt_eq]
  match j, hj with
  | 0, _ | 1, _ | 2, _ | 3, _ => norm_num; omega

theorem groupRGB10P_of_packed (ho : WordOrder read write) (hc : GroupCells 4 cells)
    (h : PackedAt (packRGB10P write) cells m a) : groupRGB10P read m a = cells := by
  obtain ⟨hr, hg, hb, ha⟩ := rgbMaximum_bounds ((packRGB10P_isSome hc.length).1 h.isSome)
  refine ext_getD (groupRGB10P_length ..) hc.length fun j hj => ?_
  rw [groupRGB10P_getD _ _ _ hj, read_packRGB10P ho hc h, bitsAt_rgbWord hr hg hb ha hj]
  match j, hj with
  | 0, _ | 1, _ | 2, _ | 3, _ => rfl

/-- The four components make up the whole word. -/
theorem eq_of_rgbFields {v w : Nat} (hv : v < 2 ^ 32) (hw : w < 2 ^ 32)
    (h : ∀ j < 4, bitsAt v (if j = 3 then 0 else 22 - 10 * j) (if j = 3 then 2 else 10) =
      bitsAt w (if j = 3 then 0 else 22 - 10 * j) (if j = 3 then 2 else 10)) : v = w := by
  have h0 := h 0 (by decide)
  have h1 := h 1 (by decide)
  have h2 := h 2 (by decide)
  have h3 := h 3 (by decide)
  simp only [bitsAt_eq] at h0 h1 h2 h3
  norm_num at h0 h1 h2 h3
  omega

theorem groupCodec_rgb (ho : WordOrder read write) :
    GroupCodec 4 4 rgbMaximum (groupRGB10P read) (packRGB10P write) (fun _ _ => True) where
  group_length m a := groupRGB10P_length read m a
  group_le m a j hj := by
    rw [groupRGB10P_getD _ _ _ hj]
    match j, hj with
    | 0, _ | 1, _ | 2, _ => exact Nat.le_of_lt_succ (bitsAt_lt _ _ 10)
    | 3, _ => exact Nat.le_of_lt_succ (bitsAt_lt _ _ 2)
  maximum_lt j := by unfold rgbMaximum; split <;> decide
  pack_isSome hc := packRGB10P_isSome hc.length
  pack_length h _ := packRGB10P_length ho.length _ _ h
  group_of_packed := groupRGB10P_of_packed ho
  clear_of_packed _ _ := trivial
  clear_congr _ _ := trivial
  bytes_of_group {m a m' a'} hg _ _ := ho.bytes_iff.1 <| eq_of_rgbFields (ho.lt m a) (ho.lt m' a') fun j hj => by
    rw [← groupRGB10P_getD _ _ _ hj, ← groupRGB10P_getD _ _ _ hj, hg]

end

/-! ### `Y8P`, `RGB24`, `RGBA32` and `RGB48` -/

/-- A group of `n` little-endian samples of `u` bytes each. -/
def groupSamples (u n : Nat) (m : Memory) (a : Nat) : List Nat := (List.range n).map fun j => memRead m (a + u * j) u

theorem groupBytes_eq_samples (n : Nat) : groupBytes n = groupSamples 1 n := by
  funext m a
  simp only [groupBytes, groupSamples, Nat.one_mul]

theorem groupRGB48_eq_samples : groupRGB48 = groupSamples 2 3 := rfl

section
variable {u n : Nat} {pack : List Nat → Option (List Byte)}

theorem groupSamples_length (m : Memory) (a : Nat) : (groupSamples u n m a).length = n := by simp [groupSamples]

theorem groupSamples_getD (m : Memory) (a : Nat) {j : Nat} (hj : j < n) :
    (groupSamples u n m a).getD j 0 = memRead m (a + u * j) u := by
  simp [groupSamples, List.getD_eq_getElem?_getD, hj]

/-- A `PACK` rule that writes each cell that fits as a sample of `u` bytes undoes the reading of such samples. -/
theorem groupCodec_samples (hu : u ≤ 2)
    (hsome : ∀ {cells}, GroupCells n cells → ((pack cells).isSome = true ↔ ∀ j < n, cells.getD j 0 ≤ 2 ^ (8 * u) - 1))
    (hpack : ∀ {cells bs}, pack cells = some bs → bs = cells.flatMap (bytesLE u)) :
    GroupCodec (u * n) n (fun _ => 2 ^ (8 * u) - 1) (groupSamples u n) pack (fun _ _ => True) where
  group_length := groupSamples_length
  group_le m a j hj := by
    rw [groupSamples_getD _ _ hj]
    exact Nat.le_sub_one_of_lt (memRead_lt ..)
  maximum_lt _ := by
    have hpos := Nat.two_pow_pos (8 * u)
    have hle : 2 ^ (8 * u) ≤ 2 ^ 16 := Nat.pow_le_pow_right (by decide) (by omega)
    omega
  pack_isSome := hsome
  pack_length h hl := by
    rw [hpack h, length_flatMap_of _ _ fun _ _ => bytesLE_length .., hl]
  group_of_packed {cells m a} hc h := by
    have hfit := (hsome hc).1 h.isSome
    obtain ⟨bs, hbs, hlies⟩ := h
    refine ext_getD (groupSamples_length ..) hc.length fun j hj => ?_
    have hlt : j < cells.length := hc.length.symm ▸ hj
    have hcell := hfit j hj
    rw [groupSamples_getD _ _ hj, memRead_units (hpack hbs) hlies (List.getElem?_eq_getElem hlt),
      ← List.getD_eq_getElem cells 0 hlt]
    exact Nat.mod_eq_of_lt (by have := Nat.two_pow_pos (8 * u); omega)
  clear_of_packed _ _ := trivial
  clear_congr _ _ := trivial
  bytes_of_group {m a m' a'} hg _ _ i hi := by
    have hpos : 0 < u := Nat.pos_of_ne_zero fun h0 => by simp [h0] at hi
    have hj : i / u < n := Nat.div_lt_of_lt_mul hi
    have hsample : memRead m (a + u * (i / u)) u = memRead m' (a' + u * (i / u)) u := by
      rw [← groupSamples_getD _ _ hj, ← groupSamples_getD _ _ hj, hg]
    have hbyte := memRead_inj hsample (i % u) (Nat.mod_lt _ hpos)
    rwa [Nat.add_assoc, Nat.add_assoc, Nat.div_add_mod] at hbyte

end

theorem packBytes_eq_some {n : Nat} {cells : List Nat} {bs : List Byte} (h : packBytes n cells = some bs) :
    bs = cells.flatMap (bytesLE 1) := by
  unfold packBytes at h
  split at h <;> cases h
  rfl

theorem groupCodec_bytes (n : Nat) :
    GroupCodec (1 * n) n (fun _ => 0xFF) (groupBytes n) (packBytes n) (fun _ _ => True) :=
  groupBytes_eq_samples n ▸
    groupCodec_samples (by decide) (fun hc => packBytes_isSome hc.length) packBytes_eq_some

theorem groupCodec_rgb48 : GroupCodec 6 3 (fun _ => 0xFFFF) groupRGB48 packRGB48 (fun _ _ => True) :=
  groupCodec_samples (u := 2) (by decide) (fun hc => packRGB48_isSome hc.length hc.lt) fun h => (Option.some.inj h).symm

/-! ### `Y10_420_PL2` -/

section
variable {l : ParamChoice} {cells : List Nat} {m : Memory} {a : Nat}

/-- The number of a packed 20-byte group (41_line_codec.md R176). -/
theorem memRead_packPL2 (hc : GroupCells 16 cells) (h : PackedAt (packPL2 l) cells m a) :
    memRead m a 20 = ((layoutPerm l).symm (.ofNat 160 (joinSamples cells))).toNat := by
  have hfit := (packPL2_isSome hc.length).1 h.isSome
  have hnumber := memRead_units (i := 0) rfl (h.lies (packPL2_some hc.length hfit)) rfl
  rwa [Nat.mul_zero, Nat.add_zero, Nat.mod_eq_of_lt (BitVec.isLt _)] at hnumber

/-- The number that sixteen cells that fit make in the default layout (41_line_codec.md R170). -/
theorem joinSamples_of_fit (hc : GroupCells 16 cells) (hfit : ∀ j < 16, cells.getD j 0 ≤ 0x3FF) :
    joinSamples cells = ((List.range 16).map fun j => cells.getD j 0 <<< (10 * j)).sum ∧
      joinSamples cells < 2 ^ 160 ∧ ∀ j < 16, bitsAt (joinSamples cells) (10 * j) 10 = cells.getD j 0 := by
  have hjoin := joinSamples_eq (cells := cells) (by rwa [hc.length])
  rwa [hc.length] at hjoin

theorem groupPL2_of_packed (hc : GroupCells 16 cells) (h : PackedAt (packPL2 l) cells m a) :
    groupPL2 l m a = cells := by
  obtain ⟨-, hlt, hfields⟩ := joinSamples_of_fit hc ((packPL2_isSome hc.length).1 h.isSome)
  refine ext_getD (groupPL2_length ..) hc.length fun j hj => ?_
  rw [groupPL2_getD _ _ _ hj, memRead_packPL2 hc h, BitVec.ofNat_toNat, BitVec.setWidth_eq, Equiv.apply_symm_apply,
    BitVec.toNat_ofNat, Nat.mod_eq_of_lt hlt, hfields j hj]

theorem groupPL2_lt (l : ParamChoice) (m : Memory) (a : Nat) {j : Nat} (hj : j < 16) : (groupPL2 l m a).getD j 0 < 1024 := by
  rw [groupPL2_getD _ _ _ hj]
  exact bitsAt_lt ..

end

theorem groupCodec_pl2 (l : ParamChoice) :
    GroupCodec 20 16 (fun _ => 0x3FF) (groupPL2 l) (packPL2 l) (fun _ _ => True) where
  group_length m a := groupPL2_length l m a
  group_le m a j hj := Nat.le_of_lt_succ (groupPL2_lt l m a hj)
  maximum_lt _ := by decide
  pack_isSome hc := packPL2_isSome hc.length
  pack_length h _ := packPL2_length l _ _ h
  group_of_packed := groupPL2_of_packed
  clear_of_packed _ _ := trivial
  clear_congr _ _ := trivial
  bytes_of_group hg _ _ := groupPL2_eq_iff.1 hg

end Sys2Proof.Machine
end

section
/-! ## A line of whole groups

The nine formats with a codec, and what their `UNPACK` and `PACK` of a line come to, group by group (41_line_codec.md R150 to
R152, R172, R175). -/

namespace Sys2Proof.Machine

/-! ### Groups of a line -/

/-- The places of `g` groups of `n` places each, group by group. -/
theorem forall_lt_groups {g n : Nat} {P : Nat → Prop} : (∀ i < g * n, P i) ↔ ∀ k < g, ∀ j < n, P (n * k + j) := by
  refine ⟨fun h k hk j hj => h _ (Nat.mul_comm n g ▸ place_lt hk hj), fun h i hi => ?_⟩
  have hn : 0 < n := Nat.pos_of_ne_zero fun h0 => by simp [h0] at hi
  have hplace := h (i / n) (Nat.div_lt_of_lt_mul (Nat.mul_comm g n ▸ hi)) (i % n) (Nat.mod_lt _ hn)
  rwa [Nat.div_add_mod] at hplace

/-- Each cell of a line's whole groups is at most its maximum. -/
theorem cells_le_iff {g n : Nat} {maximum : Nat → Nat} {s : State} {a : LineArgs} :
    (∀ i < g * n, compCell s a i ≤ maximum (i % n)) ↔ ∀ k < g, ∀ j < n, compCell s a (n * k + j) ≤ maximum j := by
  rw [forall_lt_groups]
  exact forall₄_congr fun k _ j hj => by rw [Nat.mul_add_mod, Nat.mod_eq_of_lt hj]

section
variable {fmt : PixelFormat} {gB gC gP : Nat}

theorem cellsOfGroup_getD (hg : elementGeometry fmt = ⟨gB, gC, gP⟩) (a : LineArgs) (s : State) (k : Nat) {j : Nat}
    (hj : j < gC) : (cellsOfGroup fmt a s.mem k).getD j 0 = compCell s a (gC * k + j) := by
  rw [List.getD_eq_getElem?_getD, cellsOfGroup_getElem? hg a s k hj, Option.getD_some]

theorem groupCells_cellsOfGroup (hg : elementGeometry fmt = ⟨gB, gC, gP⟩) (a : LineArgs) (m : Memory) (k : Nat) :
    GroupCells gC (cellsOfGroup fmt a m k) where
  length := by rw [cellsOfGroup_length, hg]
  lt c hc := by
    obtain ⟨j, -, rfl⟩ := List.mem_map.1 hc
    exact memRead_lt ..

/-- The cells of a group are those of any line that holds the same numbers there. -/
theorem cellsOfGroup_eq (hg : elementGeometry fmt = ⟨gB, gC, gP⟩) {a : LineArgs} {s : State} {k : Nat} {xs : List Nat}
    (hl : xs.length = gC) (h : ∀ j < gC, compCell s a (gC * k + j) = xs.getD j 0) : cellsOfGroup fmt a s.mem k = xs :=
  ext_getD (groupCells_cellsOfGroup hg a s.mem k).length hl fun j hj => by rw [cellsOfGroup_getD hg a s k hj, h j hj]

end

/-! ### The nine formats -/

/-- The bits of a packed group that no component holds are zero: only `Y10P` and `Y10P_BE` have such bits
(41_line_codec.md R173). -/
def groupClear (fmt : PixelFormat) : Memory → Nat → Prop :=
  match fmt with
  | .y10p => tenBitClear readWordLE
  | .y10pBE => tenBitClear readWordBE
  | _ => fun _ _ => True

/-- The two rows of a format with a codec: their code, what their meanings do with a group, and that the format's groups
meet `GroupCodec` whatever the layout parameter is. -/
structure Codec (p : CodecPair) (code : Nat) (group : ParamChoice → Memory → Nat → List Nat)
    (pack : ParamChoice → List Nat → Option (List Byte)) : Prop where
  unpackRow : LineRow 0x10 code p.unpack
  packRow : LineRow 0x11 code p.pack
  geometry : elementGeometry p.fmt = ⟨p.gB, p.gC, p.gP⟩
  coded : hasLineCodec p.fmt = true
  effect_unpack : ∀ a s, effectOf (p.unpack a) s = unpackEffect p.fmt (group s.params.layout) a s
  effect_pack : ∀ a s, effectOf (p.pack a) s = packEffect p.fmt (pack s.params.layout) a s
  groups : ∀ l, GroupCodec p.gB p.gC p.maximum (group l) (pack l) (groupClear p.fmt)

theorem codec_y10p : Codec ⟨.packY10P, .unpackY10P, .y10p, 16, 12, 6, fun _ => 0x3FF⟩ 0
    (fun _ => groupY10P readWordLE) (fun _ => packY10P (bytesLE 4)) :=
  ⟨.unpack rfl, .pack rfl, rfl, rfl, fun _ _ => rfl, fun _ _ => rfl, fun _ => groupCodec_tenBit wordOrderLE⟩

theorem codec_y10pBE : Codec ⟨.packY10P_BE, .unpackY10P_BE, .y10pBE, 16, 12, 6, fun _ => 0x3FF⟩ 1
    (fun _ => groupY10P readWordBE) (fun _ => packY10P (bytesBE 4)) :=
  ⟨.unpack rfl, .pack rfl, rfl, rfl, fun _ _ => rfl, fun _ _ => rfl, fun _ => groupCodec_tenBit wordOrderBE⟩

theorem codec_y8p : Codec ⟨.packY8P, .unpackY8P, .y8p, 4, 4, 2, fun _ => 0xFF⟩ 2
    (fun _ => groupBytes 4) (fun _ => packBytes 4) :=
  ⟨.unpack rfl, .pack rfl, rfl, rfl, fun _ _ => rfl, fun _ _ => rfl, fun _ => groupCodec_bytes 4⟩

theorem codec_rgb24 : Codec ⟨.packRGB24, .unpackRGB24, .rgb24, 3, 3, 1, fun _ => 0xFF⟩ 3
    (fun _ => groupBytes 3) (fun _ => packBytes 3) :=
  ⟨.unpack rfl, .pack rfl, rfl, rfl, fun _ _ => rfl, fun _ _ => rfl, fun _ => groupCodec_bytes 3⟩

theorem codec_rgba32 : Codec ⟨.packRGBA32, .unpackRGBA32, .rgba32, 4, 4, 1, fun _ => 0xFF⟩ 4
    (fun _ => groupBytes 4) (fun _ => packBytes 4) :=
  ⟨.unpack rfl, .pack rfl, rfl, rfl, fun _ _ => rfl, fun _ _ => rfl, fun _ => groupCodec_bytes 4⟩

theorem codec_rgb48 : Codec ⟨.packRGB48, .unpackRGB48, .rgb48, 6, 3, 1, fun _ => 0xFFFF⟩ 5
    (fun _ => groupRGB48) (fun _ => packRGB48) :=
  ⟨.unpack rfl, .pack rfl, rfl, rfl, fun _ _ => rfl, fun _ _ => rfl, fun _ => groupCodec_rgb48⟩

theorem codec_rgb10p : Codec ⟨.packRGB10P, .unpackRGB10P, .rgb10p, 4, 4, 1, rgbMaximum⟩ 6
    (fun _ => groupRGB10P readWordLE) (fun _ => packRGB10P (bytesLE 4)) :=
  ⟨.unpack rfl, .pack rfl, rfl, rfl, fun _ _ => rfl, fun _ _ => rfl, fun _ => groupCodec_rgb wordOrderLE⟩

theorem codec_rgb10pBE : Codec ⟨.packRGB10P_BE, .unpackRGB10P_BE, .rgb10pBE, 4, 4, 1, rgbMaximum⟩ 7
    (fun _ => groupRGB10P readWordBE) (fun _ => packRGB10P (bytesBE 4)) :=
  ⟨.unpack rfl, .pack rfl, rfl, rfl, fun _ _ => rfl, fun _ _ => rfl, fun _ => groupCodec_rgb wordOrderBE⟩

theorem codec_pl2 : Codec ⟨.packY10_420_PL2, .unpackY10_420_PL2, .y10_420pl2, 20, 16, 16, fun _ => 0x3FF⟩ 9
    groupPL2 packPL2 :=
  ⟨.unpack rfl, .pack rfl, rfl, rfl, fun _ _ => rfl, fun _ _ => rfl, groupCodec_pl2⟩

theorem codec_of_mem {p : CodecPair} (hp : p ∈ codecPairs) : ∃ code group pack, Codec p code group pack := by
  simp only [codecPairs, List.mem_cons, List.not_mem_nil, or_false] at hp
  rcases hp with rfl | rfl | rfl | rfl | rfl | rfl | rfl | rfl | rfl
  · exact ⟨_, _, _, codec_y10p⟩
  · exact ⟨_, _, _, codec_y10pBE⟩
  · exact ⟨_, _, _, codec_y8p⟩
  · exact ⟨_, _, _, codec_rgb24⟩
  · exact ⟨_, _, _, codec_rgba32⟩
  · exact ⟨_, _, _, codec_rgb48⟩
  · exact ⟨_, _, _, codec_rgb10p⟩
  · exact ⟨_, _, _, codec_rgb10pBE⟩
  · exact ⟨_, _, _, codec_pl2⟩

/-! ### A line of one of the formats -/

namespace Codec

section
variable {p : CodecPair} {code : Nat} {group : ParamChoice → Memory → Nat → List Nat}
  {pack : ParamChoice → List Nat → Option (List Byte)} {a : LineArgs} {s : State}

theorem exec_unpack_fails (h : Codec p code group pack) (hn : ¬ linePasses p.fmt p.gB p.gC p.gP a) :
    exec (p.unpack a) s = .next (failedWith s 2) := by
  rw [exec_eq_complete, h.effect_unpack]
  exact unpack_fails h.geometry h.coded hn

theorem exec_pack_fails (h : Codec p code group pack) (hn : ¬ linePasses p.fmt p.gB p.gC p.gP a) :
    exec (p.pack a) s = .next (failedWith s 2) := by
  rw [exec_eq_complete, h.effect_pack]
  exact pack_fails h.geometry h.coded hn

/-- `UNPACK` of a line leaves each group's components in the group's cells. -/
theorem exec_unpack (h : Codec p code group pack) (hm : Rising s.mem) (hl : linePasses p.fmt p.gB p.gC p.gP a)
    (hp : premises s (packedRange p.gB p.gP a) (compRange p.gC p.gP a)) :
    ∃ t, exec (p.unpack a) s = .next t ∧ Ended s t 0x001 (.replicate 12 0) (inRange (compRange p.gC p.gP a)) ∧
      t.drawn = s.drawn ∧ ∀ k < a.pixelCount / p.gP, ∀ j < p.gC,
        compCell t a (p.gC * k + j) = (group s.params.layout s.mem (a.packedAddr + p.gB * k)).getD j 0 := by
  rw [exec_eq_complete, h.effect_unpack]
  obtain ⟨t, ht, hended, hdrawn, hcells⟩ :=
    unpack_completes h.geometry h.coded (h.groups s.params.layout).group_length hm hl hp
  refine ⟨t, ht, hended, hdrawn, fun k hk j hj => (hcells k hk j hj).trans (Nat.mod_eq_of_lt ?_)⟩
  have hgroup := h.groups s.params.layout
  exact Nat.lt_of_le_of_lt (hgroup.group_le _ _ j hj) (hgroup.maximum_lt j)

/-- A group whose cells fit is one that `PACK` takes. -/
theorem isSome_of_fit (h : Codec p code group pack) (l : ParamChoice) {k : Nat}
    (hfit : ∀ j < p.gC, compCell s a (p.gC * k + j) ≤ p.maximum j) :
    (pack l (cellsOfGroup p.fmt a s.mem k)).isSome = true :=
  ((h.groups l).pack_isSome (groupCells_cellsOfGroup h.geometry a s.mem k)).2 fun j hj => by
    rw [cellsOfGroup_getD h.geometry a s k hj]
    exact hfit j hj

/-- `PACK` of a line, whatever its cells, leaves each group whose cells fit packed as the format's rule says. -/
theorem exec_pack (h : Codec p code group pack) (hm : Rising s.mem) (hl : linePasses p.fmt p.gB p.gC p.gP a)
    (hp : premises s (compRange p.gC p.gP a) (packedRange p.gB p.gP a)) :
    ∃ t, exec (p.pack a) s = .next t ∧ Ended s t 0x001 (.replicate 12 0) (inRange (packedRange p.gB p.gP a)) ∧
      t.drawn = s.drawn + (if everyGroupFits p.fmt (pack s.params.layout) a s.mem then 0 else 1) ∧
      ∀ k < a.pixelCount / p.gP, (∀ j < p.gC, compCell s a (p.gC * k + j) ≤ p.maximum j) →
        PackedAt (pack s.params.layout) (cellsOfGroup p.fmt a s.mem k) t.mem (a.packedAddr + p.gB * k) := by
  rw [exec_eq_complete, h.effect_pack]
  have hlength : ∀ cells bs, pack s.params.layout cells = some bs → cells.length = p.gC → bs.length = p.gB :=
    fun _ _ => (h.groups _).pack_length
  obtain ⟨t, ht, hended, hdrawn, hbytes⟩ := pack_completes h.geometry h.coded hlength hm hl hp
  refine ⟨t, ht, hended, hdrawn, fun k hk hfit => ?_⟩
  obtain ⟨bs, hbs⟩ := Option.isSome_iff_exists.1 (h.isSome_of_fit s.params.layout hfit)
  have hgroup : packedGroup p.fmt (pack s.params.layout) a s k = bs := by rw [packedGroup, hbs, Option.getD_some]
  refine ⟨bs, hbs, fun j hj => ?_⟩
  rw [hlength _ _ hbs (groupCells_cellsOfGroup h.geometry a s.mem k).length] at hj
  rw [hbytes k hk j hj, hgroup]

/-- A packed group unpacks to the cells it was made from. -/
theorem getD_of_packed (h : Codec p code group pack) {l : ParamChoice} {m : Memory} {base k j : Nat}
    (hpacked : PackedAt (pack l) (cellsOfGroup p.fmt a s.mem k) m base) (hj : j < p.gC) :
    (group l m base).getD j 0 = compCell s a (p.gC * k + j) := by
  rw [(h.groups l).group_of_packed (groupCells_cellsOfGroup h.geometry a s.mem k) hpacked,
    cellsOfGroup_getD h.geometry a s k hj]

/-- The `UNPACK` row of a format, by what its rule says of component `j` of group `k`. -/
theorem unpacksTo (h : Codec p code group pack) {component : LineArgs → State → Nat → Nat}
    (hcomponent : ∀ a s k, ∀ j < p.gC,
      (group s.params.layout s.mem (a.packedAddr + p.gB * k)).getD j 0 = component a s (p.gC * k + j)) :
    UnpacksTo p.unpack (.ofNat 32 (0x10 + code * 256)) p.fmt p.gB p.gC p.gP component := by
  refine ⟨fun a _ => h.unpackRow.low a, fun a s => h.exec_unpack_fails, fun a s hm hl hp => ?_⟩
  obtain ⟨t, ht, hended, hdrawn, hcells⟩ := h.exec_unpack (rising_of_wf hm) hl hp
  refine ⟨t, ht, hended, hdrawn, forall_lt_groups.2 fun k hk j hj => ?_⟩
  rw [hcells k hk j hj, hcomponent a s k j hj]

/-- The `PACK` row of a format, by what its rule says of a line whose groups are packed. -/
theorem packsTo (h : Codec p code group pack) {packed : LineArgs → State → State → Prop}
    (hpacked : ∀ (a : LineArgs) (s t : State),
      (∀ k < a.pixelCount / p.gP,
        PackedAt (pack s.params.layout) (cellsOfGroup p.fmt a s.mem k) t.mem (a.packedAddr + p.gB * k)) → packed a s t) :
    PacksTo p.pack (.ofNat 32 (0x11 + code * 256)) p.fmt p.gB p.gC p.gP p.maximum packed := by
  refine ⟨fun a _ => h.packRow.low a, fun a s => h.exec_pack_fails, fun a s hm hl hp hfit => ?_⟩
  have hfits := cells_le_iff.1 hfit
  obtain ⟨t, ht, hended, hdrawn, hgroups⟩ := h.exec_pack (rising_of_wf hm) hl hp
  have hall : everyGroupFits p.fmt (pack s.params.layout) a s.mem = true := everyGroupFits_of fun k hk => by
    rw [groupCount, h.geometry] at hk
    exact h.isSome_of_fit _ (hfits k hk)
  refine ⟨t, ht, hended, ?_, hpacked a s t fun k hk => hgroups k hk (hfits k hk)⟩
  rw [hdrawn, hall, if_pos rfl, Nat.add_zero]

end

end Codec

end Sys2Proof.Machine
end

section
/-! ## `UNPACK` of the nine formats

Each rule's component, from the group it lies in (41_line_codec.md R153 to R170). -/

namespace Sys2Proof.Machine

/-- Component `i` of a `Y10P` line by its word, three to a word (41_line_codec.md R153, R155). -/
theorem groupY10P_component (read : WordReader) (m : Memory) (base k : Nat) {j : Nat} (hj : j < 12) :
    (groupY10P read m (base + 16 * k)).getD j 0 =
      read m (base + 4 * ((12 * k + j) / 3)) >>> (10 * ((12 * k + j) % 3)) &&& 0x3FF := by
  have hword : base + 4 * ((12 * k + j) / 3) = base + 16 * k + 4 * (j / 3) := by omega
  have hfield : (12 * k + j) % 3 = j % 3 := by omega
  rw [hword, hfield]
  exact groupY10P_getD read m _ hj

/-- Settles O28, by the twelve fields of each group in either byte order. -/
theorem unpackTenBit422 : Obligations.UnpackTenBit422 :=
  ⟨codec_y10p.unpacksTo fun _ _ _ _ hj => groupY10P_component _ _ _ _ hj,
    codec_y10pBE.unpacksTo fun _ _ _ _ hj => groupY10P_component _ _ _ _ hj⟩

/-- Sample `i` of a line of samples, by the group it lies in. -/
theorem groupSamples_component (u n : Nat) (m : Memory) (base k : Nat) {j : Nat} (hj : j < n) :
    (groupSamples u n m (base + u * n * k)).getD j 0 = memRead m (base + u * (n * k + j)) u := by
  rw [groupSamples_getD _ _ hj, Nat.mul_add, Nat.mul_assoc, Nat.add_assoc]

theorem groupBytes_component (n : Nat) (m : Memory) (base k : Nat) {j : Nat} (hj : j < n) :
    (groupBytes n m (base + n * k)).getD j 0 = memRead m (base + (n * k + j)) 1 := by
  rw [groupBytes_getD _ _ _ hj, Nat.add_assoc]

/-- Settles O29, by the samples of each group, which are bytes, or in `RGB48` pairs of bytes. -/
theorem unpackWholeSamples : Obligations.UnpackWholeSamples :=
  ⟨codec_y8p.unpacksTo fun _ _ _ _ hj => groupBytes_component 4 _ _ _ hj,
    codec_rgb24.unpacksTo fun _ _ _ _ hj => groupBytes_component 3 _ _ _ hj,
    codec_rgba32.unpacksTo fun _ _ _ _ hj => groupBytes_component 4 _ _ _ hj,
    codec_rgb48.unpacksTo fun _ _ _ _ hj => groupSamples_component 2 3 _ _ _ hj⟩

/-- Component `i` of a 10-bit packed-RGB line by its word, four to a word (41_line_codec.md R165, R167). -/
theorem groupRGB10P_component (read : WordReader) (m : Memory) (base k : Nat) {j : Nat} (hj : j < 4) :
    (groupRGB10P read m (base + 4 * k)).getD j 0 =
      if (4 * k + j) % 4 = 0 then read m (base + 4 * ((4 * k + j) / 4)) >>> 22 &&& 0x3FF
      else if (4 * k + j) % 4 = 1 then read m (base + 4 * ((4 * k + j) / 4)) >>> 12 &&& 0x3FF
      else if (4 * k + j) % 4 = 2 then read m (base + 4 * ((4 * k + j) / 4)) >>> 2 &&& 0x3FF
      else read m (base + 4 * ((4 * k + j) / 4)) &&& 0x3 := by
  have hword : (4 * k + j) / 4 = k := by omega
  have hfield : (4 * k + j) % 4 = j := by omega
  rw [hword, hfield]
  match j, hj with
  | 0, _ | 1, _ | 2, _ | 3, _ => rfl

/-- Settles O30, by the four fields of each group's word in either byte order. -/
theorem unpackTenBitRgb : Obligations.UnpackTenBitRgb :=
  ⟨codec_rgb10p.unpacksTo fun _ _ _ _ hj => groupRGB10P_component _ _ _ _ hj,
    codec_rgb10pBE.unpacksTo fun _ _ _ _ hj => groupRGB10P_component _ _ _ _ hj⟩

/-- In the default layout a sample is its ten bits of the group's number (41_line_codec.md R170). -/
theorem groupPL2_standard_getD (m : Memory) (base : Nat) {j : Nat} (hj : j < 16) :
    (groupPL2 .standard m base).getD j 0 = memRead m base 20 >>> (10 * j) &&& 0x3FF := by
  have hnumber : (BitVec.ofNat 160 (memRead m base 20)).toNat = memRead m base 20 :=
    Nat.mod_eq_of_lt (memRead_lt m base 20)
  rw [groupPL2_getD _ _ _ hj]
  exact congrArg (bitsAt · (10 * j) 10) hnumber

/-- Settles O31: a sample past the sixteenth is none, and reads as 0. -/
theorem unpackTwoPlane : Obligations.UnpackTwoPlane := by
  refine ⟨codec_pl2.unpacksTo fun a s k j hj => ?_, fun m base j hj => groupPL2_standard_getD m base hj,
    fun l m base j => ?_⟩
  · replace hj : j < 16 := hj
    have hgroup : (16 * k + j) / 16 = k := by omega
    have hsample : (16 * k + j) % 16 = j := by omega
    simp only [hgroup, hsample]
  · by_cases hj : j < 16
    · exact groupPL2_lt l m base hj
    · rw [List.getD_eq_default _ _ (by rw [groupPL2_length]; omega)]
      decide

end Sys2Proof.Machine
end

section
/-! ## `PACK` of the nine formats

Each rule's packed line, from the groups that it packed (41_line_codec.md R154 to R176), and what `PACK` of any samples comes
to (R172). -/

namespace Sys2Proof.Machine

section
variable {gP : Nat} {a : LineArgs} {s t : State}

/-- Word `i` of a packed `Y10P` line, four to a group (41_line_codec.md R154, R156). -/
theorem read_packedTenBit {fmt : PixelFormat} {read : WordReader} {write : WordWriter} (ho : WordOrder read write)
    (hg : elementGeometry fmt = ⟨16, 12, gP⟩) {g : Nat}
    (h : ∀ k < g, PackedAt (packY10P write) (cellsOfGroup fmt a s.mem k) t.mem (a.packedAddr + 16 * k)) :
    ∀ i < 4 * g, read t.mem (a.packedAddr + 4 * i) =
      compCell s a (3 * i) ||| compCell s a (3 * i + 1) <<< 10 ||| compCell s a (3 * i + 2) <<< 20 := by
  rw [Nat.mul_comm 4, forall_lt_groups]
  intro k hk j hj
  have haddr : a.packedAddr + 4 * (4 * k + j) = a.packedAddr + 16 * k + 4 * j := by omega
  have hcell : 3 * (4 * k + j) = 12 * k + 3 * j := by omega
  rw [haddr, hcell, read_packY10P ho (groupCells_cellsOfGroup hg a s.mem k) (h k hk) hj,
    cellsOfGroup_getD hg a s k (by omega), cellsOfGroup_getD hg a s k (by omega), cellsOfGroup_getD hg a s k (by omega)]
  rfl

/-- Settles O32, by the four words of each packed group in either byte order. -/
theorem packTenBit422 : Obligations.PackTenBit422 :=
  ⟨codec_y10p.packsTo fun _ _ _ h => read_packedTenBit wordOrderLE rfl h,
    codec_y10pBE.packsTo fun _ _ _ h => read_packedTenBit wordOrderBE rfl h⟩

/-- A packed line unpacks to the cells it was made from, sample by sample. -/
theorem Codec.samples_of_packed {p : CodecPair} {code : Nat} {group : ParamChoice → Memory → Nat → List Nat}
    {pack : ParamChoice → List Nat → Option (List Byte)} (h : Codec p code group pack) {g : Nat}
    (hpacked : ∀ k < g,
      PackedAt (pack s.params.layout) (cellsOfGroup p.fmt a s.mem k) t.mem (a.packedAddr + p.gB * k))
    {sample : Nat → Nat} (hsample : ∀ k, ∀ j < p.gC,
      (group s.params.layout t.mem (a.packedAddr + p.gB * k)).getD j 0 = sample (p.gC * k + j)) :
    ∀ i < p.gC * g, sample i = compCell s a i := by
  rw [Nat.mul_comm, forall_lt_groups]
  intro k hk j hj
  rw [← hsample k j hj, h.getD_of_packed (hpacked k hk) hj]

/-- Settles O33: a packed group unpacks to its cells, and what it unpacks to is its samples. -/
theorem packWholeSamples : Obligations.PackWholeSamples :=
  ⟨codec_y8p.packsTo fun _ _ _ h => codec_y8p.samples_of_packed h fun k _ hj => groupBytes_component 4 _ _ k hj,
    codec_rgb24.packsTo fun a _ _ h => Nat.div_one a.pixelCount ▸
      codec_rgb24.samples_of_packed h fun k _ hj => groupBytes_component 3 _ _ k hj,
    codec_rgba32.packsTo fun a _ _ h => Nat.div_one a.pixelCount ▸
      codec_rgba32.samples_of_packed h fun k _ hj => groupBytes_component 4 _ _ k hj,
    codec_rgb48.packsTo fun a _ _ h => Nat.div_one a.pixelCount ▸
      codec_rgb48.samples_of_packed h fun k _ hj => groupSamples_component 2 3 _ _ k hj⟩

/-- Word `i` of a packed 10-bit packed-RGB line, one to a group (41_line_codec.md R166, R168). -/
theorem read_packedRgb {fmt : PixelFormat} {read : WordReader} {write : WordWriter} (ho : WordOrder read write)
    (hg : elementGeometry fmt = ⟨4, 4, gP⟩) {g : Nat}
    (h : ∀ k < g, PackedAt (packRGB10P write) (cellsOfGroup fmt a s.mem k) t.mem (a.packedAddr + 4 * k)) :
    ∀ i < g, read t.mem (a.packedAddr + 4 * i) = compCell s a (4 * i) <<< 22 ||| compCell s a (4 * i + 1) <<< 12 |||
      compCell s a (4 * i + 2) <<< 2 ||| compCell s a (4 * i + 3) := by
  intro k hk
  have hcell : ∀ j < 4, (cellsOfGroup fmt a s.mem k).getD j 0 = compCell s a (4 * k + j) :=
    fun _ => cellsOfGroup_getD hg a s k
  rw [read_packRGB10P ho (groupCells_cellsOfGroup hg a s.mem k) (h k hk), hcell 0 (by decide), hcell 1 (by decide),
    hcell 2 (by decide), hcell 3 (by decide)]
  rfl

/-- Settles O34, by the word of each packed group in either byte order. -/
theorem packTenBitRgb : Obligations.PackTenBitRgb :=
  ⟨codec_rgb10p.packsTo fun a _ _ h => Nat.div_one a.pixelCount ▸ read_packedRgb wordOrderLE rfl h,
    codec_rgb10pBE.packsTo fun a _ _ h => Nat.div_one a.pixelCount ▸ read_packedRgb wordOrderBE rfl h⟩

/-- In the default layout the number of a packed group is the sum of its cells, each ten bits above the one before
(41_line_codec.md R170). -/
theorem memRead_packPL2_standard {cells : List Nat} {m : Memory} {base : Nat} (hc : GroupCells 16 cells)
    (h : PackedAt (packPL2 .standard) cells m base) :
    memRead m base 20 = ((List.range 16).map fun j => cells.getD j 0 <<< (10 * j)).sum := by
  obtain ⟨hsum, hlt, -⟩ := joinSamples_of_fit hc ((packPL2_isSome hc.length).1 h.isSome)
  rw [memRead_packPL2 hc h, ← hsum]
  exact Nat.mod_eq_of_lt hlt

/-- Settles O35: a packed group unpacks to its cells, and in the default layout its number is their sum. -/
theorem packTwoPlane : Obligations.PackTwoPlane := by
  refine codec_pl2.packsTo fun a s t h k hk => ?_
  have hpacked := h k hk
  refine ⟨fun j hj => codec_pl2.getD_of_packed hpacked hj, fun hstandard => ?_⟩
  rw [hstandard] at hpacked
  refine (memRead_packPL2_standard (groupCells_cellsOfGroup codec_pl2.geometry a s.mem k) hpacked).trans
    (congrArg List.sum (List.map_congr_left fun j hj => ?_))
  exact congrArg (· <<< (10 * j)) (cellsOfGroup_getD codec_pl2.geometry a s k (List.mem_range.1 hj))

end

/-! ### Any samples -/

/-- A command that would stop where its premises fail meets them where it completes. -/
theorem premises_of_next {i : Instr} {s t : State} {src dst : Range} (h : StopsOn i s src dst) (ht : exec i s = .next t) :
    premises s src dst := by
  obtain ⟨hoverlap, hunbacked⟩ := h
  have hapart : ¬ dst.overlaps src := fun ho => by rw [hoverlap ho] at ht; cases ht
  have hbacked : isBacked s src ∧ isBacked s dst := by
    by_contra hb
    rw [hunbacked hapart hb] at ht
    cases ht
  exact ⟨hapart, hbacked⟩

/-- Settles O36: the bytes of a group whose cells fit are those of the format's rule in either run. -/
theorem packCompletesOnAnySamples : Obligations.PackCompletesOnAnySamples := by
  intro p hp a s hm hl hprem
  obtain ⟨code, group, pack, h⟩ := codec_of_mem hp
  obtain ⟨t, ht, hended, -, hgroups⟩ := h.exec_pack (rising_of_wf hm) hl hprem
  refine ⟨t, ht, hended, fun u v hmu hparams hv k hk hfit => ?_⟩
  have hpremu := premises_of_next (stopsOn_of_guarded (codec_guarded hp hl).2) hv
  obtain ⟨v', hv', -, -, hgroupsu⟩ := h.exec_pack (rising_of_wf hmu) hl hpremu
  obtain rfl : v' = v := Host.Outcome.next.inj (hv'.symm.trans hv)
  have hcells : cellsOfGroup p.fmt a u.mem k = cellsOfGroup p.fmt a s.mem k :=
    cellsOfGroup_eq h.geometry (groupCells_cellsOfGroup h.geometry a s.mem k).length fun j hj => by
      rw [cellsOfGroup_getD h.geometry a s k hj, (hfit j hj).2]
  have hpacked := hgroups k hk fun j hj => (hfit j hj).1
  obtain ⟨bs, hbs, hlies⟩ := hgroupsu k hk fun j hj => (hfit j hj).2 ▸ (hfit j hj).1
  rw [hcells, hparams] at hbs
  exact (hpacked.lies hbs).sameBytes hlies
    ((h.groups _).pack_length hbs (groupCells_cellsOfGroup h.geometry a s.mem k).length)

end Sys2Proof.Machine
end

section
/-! ## The round trips of a line

A packed line unpacks to its cells, and an unpacked line packs to its bytes where no bit was lost (41_line_codec.md R173). -/

namespace Sys2Proof.Machine

theorem premises_congr {s t : State} {src dst : Range} (h : t.unbacked = s.unbacked) (hp : premises s src dst) :
    premises t src dst := by
  simpa only [premises, isBacked, h] using hp

/-- Settles O37: each group of the second line is unpacked from the bytes that its cells were packed to. -/
theorem unpackOfPack : Obligations.UnpackOfPack := by
  intro p hp a b s hm hla hlb haddr hcount hpa hpb hfit
  obtain ⟨code, group, pack, h⟩ := codec_of_mem hp
  obtain ⟨t, ht, hended, -, hpacked⟩ := h.exec_pack (rising_of_wf hm) hla hpa
  have hmt : Rising t.mem := complete_rising (exec_eq_complete _ _ ▸ ht) (rising_of_wf hm)
  obtain ⟨u, hu, -, -, hcells⟩ := h.exec_unpack hmt hlb (premises_congr hended.unbacked hpb)
  have hfits := cells_le_iff.1 hfit
  refine ⟨t, u, ht, hu, forall_lt_groups.2 fun k hk j hj => ?_⟩
  rw [hcells k (hcount.symm ▸ hk) j hj, haddr, hended.params]
  exact h.getD_of_packed (hpacked k hk (hfits k hk)) hj

/-! ### The bits that are lost -/

theorem tenBitClear_line {read : WordReader} {m : Memory} {base g : Nat} :
    (∀ k < g, tenBitClear read m (base + 16 * k)) ↔ ∀ i < 4 * g, read m (base + 4 * i) < 2 ^ 30 := by
  rw [Nat.mul_comm 4, forall_lt_groups]
  refine forall₄_congr fun k _ j _ => ?_
  rw [show base + 4 * (4 * k + j) = base + 16 * k + 4 * j by omega]

/-- A packed line has no bit that no component holds, unless it is one of `Y10P` or `Y10P_BE` (41_line_codec.md R173). -/
theorem groupClear_line {fmt : PixelFormat} {gB gC gP : Nat} (hg : elementGeometry fmt = ⟨gB, gC, gP⟩) {m : Memory}
    {base pixels : Nat} :
    (∀ k < pixels / gP, groupClear fmt m (base + gB * k)) ↔
      (fmt = .y10p → ∀ i < 4 * (pixels / 6), memRead m (base + 4 * i) 4 < 2 ^ 30) ∧
      (fmt = .y10pBE → ∀ i < 4 * (pixels / 6), memReadBE m (base + 4 * i) 4 < 2 ^ 30) := by
  cases fmt
  case y10p =>
    cases hg
    exact tenBitClear_line.trans ⟨fun h => ⟨fun _ => h, fun hne => nomatch hne⟩, fun h => h.1 rfl⟩
  case y10pBE =>
    cases hg
    exact tenBitClear_line.trans ⟨fun h => ⟨fun hne => (nomatch hne), fun _ => h⟩, fun h => h.2 rfl⟩
  all_goals simp [groupClear]

/-- The bytes of two lines of groups agree when those of each group do. -/
theorem sameBytes_groups {m m' : Memory} {x x' g n : Nat} :
    SameBytes (g * n) m x m' x' ↔ ∀ k < g, SameBytes n m (x + n * k) m' (x' + n * k) := by
  simp only [SameBytes, Nat.add_assoc]
  exact forall_lt_groups

/-- Settles O38: each group of the second line is packed from what the first line's unpacked to, and has no bit that no
component holds. -/
theorem packOfUnpack : Obligations.PackOfUnpack := by
  intro p hp a b s hm hla hlb haddr hcount hpa hpb
  obtain ⟨code, group, pack, h⟩ := codec_of_mem hp
  have hg := h.groups s.params.layout
  obtain ⟨t, ht, hended, -, hcells⟩ := h.exec_unpack (rising_of_wf hm) hla hpa
  have hmt : Rising t.mem := complete_rising (exec_eq_complete _ _ ▸ ht) (rising_of_wf hm)
  obtain ⟨u, hu, -, -, hpacked⟩ := h.exec_pack hmt hlb (premises_congr hended.unbacked hpb)
  refine ⟨t, u, ht, hu, ?_⟩
  rw [← groupClear_line h.geometry]
  refine sameBytes_groups.trans (forall₂_congr fun k hk => ?_)
  have hcell : ∀ j < p.gC,
      compCell t b (p.gC * k + j) = (group s.params.layout s.mem (a.packedAddr + p.gB * k)).getD j 0 :=
    fun j hj => by rw [compCell, haddr]; exact hcells k hk j hj
  have hgroup := hpacked k (hcount.symm ▸ hk) fun j hj => hcell j hj ▸ hg.group_le _ _ j hj
  rw [hended.params] at hgroup
  have hgroupCells := groupCells_cellsOfGroup h.geometry b t.mem k
  have hsame := (hg.group_of_packed hgroupCells hgroup).trans (cellsOfGroup_eq h.geometry (hg.group_length ..) hcell)
  have hclear := hg.clear_of_packed hgroupCells hgroup
  exact ⟨fun hbytes => hg.clear_congr hbytes hclear, fun hsource => hg.bytes_of_group hsame hclear hsource⟩

end Sys2Proof.Machine
end

section
/-! ## The default kernel

Its rounding, its sums, and its numbers for each profile (42_color_space.md R193 to R196, R200). -/

namespace Sys2Proof.Machine

theorem rnd16_bounds (x : Int) : 65536 * rnd16 x ≤ x + 32768 ∧ x + 32768 < 65536 * rnd16 x + 65536 := by
  unfold rnd16
  omega

/-! ### The sums stay small -/

/-- A multiplier so small that three terms of 16-bit inputs stay within 2^35. -/
def IsWeight (c : Int) : Prop := 0 ≤ c ∧ 3 * c ≤ 2 ^ 19

/-- A 16-bit input after its offset: 0, 64 or 512 less. -/
def IsOffsetInput (x : Int) : Prop := -512 ≤ x ∧ x ≤ 2 ^ 16

theorem isOffsetInput_sub {p o : Int} (hp : 0 ≤ p) (hp' : p < 65536) (ho : 0 ≤ o) (ho' : o ≤ 512) : IsOffsetInput (p - o) :=
  ⟨by omega, by omega⟩

theorem kernelConstants_off (sd sr : Bool) : 0 ≤ (kernelConstants sd sr).off ∧ (kernelConstants sd sr).off ≤ 512 := by
  cases sd <;> cases sr <;> decide

/-- The multipliers of a profile: its constants but the offset. -/
def KernelConstants.weights (k : KernelConstants) : List Int :=
  [k.ky, k.krv, k.kbu, k.kgu, k.kgv, k.cyr, k.cyg, k.cyb, k.cur, k.cug, k.cub, k.cvr, k.cvg, k.cvb]

/-- Every multiplier of every profile is a weight: the largest is 138846, and 3 * 138846 < 2^19. -/
theorem isWeight_of_mem_weights (sd sr : Bool) : ∀ c ∈ (kernelConstants sd sr).weights, IsWeight c := by
  unfold IsWeight
  cases sd <;> cases sr <;> decide

/-- A weighted input is no less than a third of -2^35, and no more than a third of 2^35. -/
theorem IsWeight.mul_bounds {c x : Int} (hc : IsWeight c) (hx : IsOffsetInput x) :
    -(2 ^ 35) ≤ 3 * (c * x) ∧ 3 * (c * x) ≤ 2 ^ 35 := by
  obtain ⟨hc0, hc1⟩ := hc
  obtain ⟨hx0, hx1⟩ := hx
  constructor
  · have hlow : c * -512 ≤ c * x := Int.mul_le_mul_of_nonneg_left hx0 hc0
    omega
  · have hhigh : c * x ≤ c * 2 ^ 16 := Int.mul_le_mul_of_nonneg_left hx1 hc0
    omega

/-- Settles O43: each sum has at most three terms, each of them within a third of 2^35. -/
theorem defaultKernelFits : Obligations.DefaultKernelFits := by
  refine ⟨rnd16_bounds, fun sd sr p q r hp hp' hq hq' hr hr' => ?_⟩
  intro k small
  obtain ⟨hoff, hoff'⟩ : 0 ≤ k.off ∧ k.off ≤ 512 := kernelConstants_off sd sr
  have hweights : ∀ c ∈ k.weights, IsWeight c := isWeight_of_mem_weights sd sr
  simp only [KernelConstants.weights, List.forall_mem_cons] at hweights
  obtain ⟨hky, hkrv, hkbu, hkgu, hkgv, hcyr, hcyg, hcyb, hcur, hcug, hcub, hcvr, hcvg, hcvb, -⟩ := hweights
  have hluma : IsOffsetInput (p - 64) := isOffsetInput_sub hp hp' (by decide) (by decide)
  have hcb : IsOffsetInput (q - 512) := isOffsetInput_sub hq hq' (by decide) (by decide)
  have hcr : IsOffsetInput (r - 512) := isOffsetInput_sub hr hr' (by decide) (by decide)
  have hred : IsOffsetInput (p - k.off) := isOffsetInput_sub hp hp' hoff hoff'
  have hgreen : IsOffsetInput (q - k.off) := isOffsetInput_sub hq hq' hoff hoff'
  have hblue : IsOffsetInput (r - k.off) := isOffsetInput_sub hr hr' hoff hoff'
  have hy := hky.mul_bounds hluma
  refine ⟨⟨?_, ?_, ?_⟩, ?_, ?_, ?_⟩
  · have hv := hkrv.mul_bounds hcr
    omega
  · have hu := hkgu.mul_bounds hcb
    have hv := hkgv.mul_bounds hcr
    omega
  · have hu := hkbu.mul_bounds hcb
    omega
  · have h1 := hcyr.mul_bounds hred
    have h2 := hcyg.mul_bounds hgreen
    have h3 := hcyb.mul_bounds hblue
    omega
  · have h1 := hcur.mul_bounds hred
    have h2 := hcug.mul_bounds hgreen
    have h3 := hcub.mul_bounds hblue
    rw [neg_mul]
    omega
  · have h1 := hcvr.mul_bounds hred
    have h2 := hcvg.mul_bounds hgreen
    have h3 := hcvb.mul_bounds hblue
    omega

/-! ### The numbers of each profile -/

/-- The default `r2y` of a full-range profile, whose RGB has no offset (42_color_space.md R194, R195). -/
theorem standardR2Y_full (sd : Bool) (R G B : Int) :
    let k := kernelConstants sd false
    standardR2Y sd false R G B = (64 + rnd16 (k.cyr * R + k.cyg * G + k.cyb * B),
      512 + rnd16 (-k.cur * R - k.cug * G + k.cub * B), 512 + rnd16 (k.cvr * R - k.cvg * G - k.cvb * B)) := by
  have hoff : (kernelConstants sd false).off = 0 := by cases sd <;> rfl
  simp only [standardR2Y, hoff, sub_zero]

/-- Settles O42: a default sum is its profile's column, and the examples and the corners evaluate. -/
theorem defaultKernel : Obligations.DefaultKernel := by
  refine ⟨fun Y Cb Cr => ⟨rfl, rfl, rfl, rfl⟩, fun R G B => ⟨?_, rfl, ?_, rfl⟩, ⟨rfl, rfl⟩, ⟨rfl, rfl, rfl⟩, by decide,
    by decide⟩
  · exact standardR2Y_full true R G B
  · exact standardR2Y_full false R G B

end Sys2Proof.Machine
end

section
/-! ## The converter's operations

Their destination cells, pixel by pixel and pair by pair (42_color_space.md R199 to R206). -/

namespace Sys2Proof.Machine

theorem wrap16_mod (x : Int) : wrap16 x % 65536 = wrap16 x := Nat.mod_eq_of_lt (wrap16_lt x)

/-- A destination cell whose value is wrapped reads back as that value. -/
theorem dstCell_of_wrapped {t : State} {b : LinePair} {cells : List Nat}
    (h : ∀ i v, cells[i]? = some v → dstCell t b i = v % 65536) {i : Nat} {x : Int} (hi : cells[i]? = some (wrap16 x)) :
    dstCell t b i = wrap16 x :=
  (h i _ hi).trans (wrap16_mod x)

/-! ### `CSC.RDEPTH` -/

/-- Settles O41: cell `i` of the line is `redepth` of the source's, and each pair of depths is a product and a quotient by
powers of two. -/
theorem depthConversion : Obligations.DepthConversion := by
  refine ⟨fun a4 dep dep2 b => ?_, fun v hv => ?_⟩
  · refine convertsTo_of (fun _ => rfl) (fun s => ?_) fun s t hcells i hi => dstCell_of_wrapped hcells ?_
    · rw [List.length_map, List.length_range]
      rfl
    · rw [List.getElem?_map]
      exact congrArg (Option.map _) (List.getElem?_range hi)
  · simp only [wrap16, from10, to10]
    omega

/-! ### `CSC.Y2R` -/

section
variable {s t : State} {sd sr al a4 : Bool} {dep : Depth} {b : LinePair}

/-- The pixel that begins at cell `first` holds, where the cells from there on are those of `rgbPixel`. -/
theorem pixelHolds_of_cells {first y u v : Nat}
    (h : ∀ j < rgbCells a4, ∀ c, (rgbPixel s.params sd sr al a4 dep y u v)[j]? = some c →
      dstCell t b (first + j) = c % 65536) :
    pixelHolds s t al a4 dep b first y (kernelY2R s.params.kernel sd sr y u v) := by
  have hcell {j : Nat} {x : Int} (hj : j < rgbCells a4)
      (hx : (rgbPixel s.params sd sr al a4 dep y u v)[j]? = some (wrap16 x)) : dstCell t b (first + j) = wrap16 x :=
    (h j hj _ hx).trans (wrap16_mod x)
  obtain ⟨hred, hgreen, hblue, halpha⟩ := rgbPixel_getElem? s.params sd sr al a4 dep y u v
  have hthree : 3 ≤ rgbCells a4 := Nat.le_add_right 3 _
  refine ⟨hcell (by omega) hred, hcell (by omega) hgreen, hcell (by omega) hblue, fun ha => ?_⟩
  exact hcell (by rw [rgbCells_eq, ha]; decide) (halpha ha)

variable {p : Params} {m : Memory} {k : Nat}

/-- The cells of a pair's first pixel come first. -/
theorem rgbPair_first {j : Nat} (hj : j < rgbCells a4) :
    (rgbPair p sd sr al a4 dep b m k)[j]? =
      (rgbPixel p sd sr al a4 dep (sourceCell b m (4 * k + 1)) (sourceCell b m (4 * k)) (sourceCell b m (4 * k + 2)))[j]? :=
  List.getElem?_append_left (by rwa [rgbPixel_length])

/-- The cells of a pair's second pixel come after those of its first. -/
theorem rgbPair_second (j : Nat) :
    (rgbPair p sd sr al a4 dep b m k)[rgbCells a4 + j]? =
      (rgbPixel p sd sr al a4 dep (sourceCell b m (4 * k + 3)) (secondChroma b m k 0) (secondChroma b m k 2))[j]? := by
  rw [rgbPair, List.getElem?_append_right (by rw [rgbPixel_length]; omega), rgbPixel_length, Nat.add_sub_cancel_left]

end

/-- Settles O39: the two pixels of pair `k` are the two halves of its cells. -/
theorem yccToRgb : Obligations.YccToRgb := by
  intro sd sr al a4 dep b P S
  refine convertsTo_of (fun _ => rfl) (fun s => ?_) fun s t hcells k hk => ?_
  · rw [length_flatMap_range _ fun _ => rgbPair_length ..]
    change 2 * (2 * S * P) = 4 * S * P
    ring
  · have hpair : ∀ j < 2 * S, ∀ c, (rgbPair s.params sd sr al a4 dep b s.mem k)[j]? = some c →
        dstCell t b (2 * S * k + j) = c % 65536 := fun j hj c hc =>
      hcells _ c ((getElem?_flatMap_range _ (fun _ => rgbPair_length ..) hk hj).trans hc)
    refine ⟨pixelHolds_of_cells fun j hj c hc => ?_, pixelHolds_of_cells fun j hj c hc => ?_⟩
    · have hplace : S * (2 * k) + j = 2 * S * k + j := by ring
      rw [hplace]
      exact hpair j (by change j < S at hj; omega) c ((rgbPair_first hj).trans hc)
    · have hplace : S * (2 * k + 1) + j = 2 * S * k + (S + j) := by ring
      rw [hplace]
      exact hpair (S + j) (by change j < S at hj; omega) c ((rgbPair_second j).trans hc)

/-! ### `CSC.R2Y` -/

/-- Settles O40: the four cells of pair `k`. -/
theorem rgbToYcc : Obligations.RgbToYcc := by
  intro sd sr a4 dep b P S
  refine convertsTo_of (fun _ => rfl) (fun s => ?_) fun s t hcells k hk => ?_
  · rw [length_flatMap_range _ fun _ => yccPair_length ..]
    change 2 * (4 * P) = 8 * P
    ring
  · have hpair {j : Nat} (hj : j < 4) {x : Int} (hx : (yccPair s.params sd sr a4 dep b s.mem k)[j]? = some (wrap16 x)) :
        dstCell t b (4 * k + j) = wrap16 x :=
      dstCell_of_wrapped hcells ((getElem?_flatMap_range _ (fun _ => yccPair_length ..) hk hj).trans hx)
    exact ⟨hpair (j := 0) (by decide) rfl, hpair (j := 1) (by decide) rfl, hpair (j := 2) (by decide) rfl,
      hpair (j := 3) (by decide) rfl⟩

end Sys2Proof.Machine
end

section
/-! ## The reader's checks

In their order, with their codes (43_component_reader.md R227 to R229, R231). -/

namespace Sys2Proof.Machine

section
variable {fmt : PixelFormat} {vm : Bool} {v : ViewArgs}

theorem exec_view_of_failure {code : FailCode} (h : viewOpFailure fmt (mkDesc fmt v.size vm) v = some code) (s : State) :
    exec (.view fmt vm v) s = .next (failedWith s (failNumber code)) := by
  have heffect : effectView fmt vm v s = .failed code .notMade := by simp only [effectView, h]
  exact exec_of_effect_failed (i := .view fmt vm v) heffect

theorem viewOpFailure_null {d : Descriptor} (h : v.aAddr = 0 ∨ v.bAddr = 0) :
    viewOpFailure fmt d v = some .nullBuffer := if_pos h

/-- Past the null checks buffer A is checked, then the room for the view. -/
theorem viewOpFailure_buffers {d : Descriptor} (ha : v.aAddr ≠ 0) (hb : v.bAddr ≠ 0) :
    viewOpFailure fmt d v = (viewFailure fmt d v.aAddr v.aLen).or
      (if fits v.bAddr v.bLen (2 * slotCount fmt d) then none else some .badBufferSize) := by
  rw [viewOpFailure, if_neg (not_or.2 ⟨ha, hb⟩), ite_not]
  cases viewFailure fmt d v.aAddr v.aLen <;> rfl

theorem viewOpFailure_size {d : Descriptor} (ha : v.aAddr ≠ 0) (hb : v.bAddr ≠ 0) (hm : isModelled fmt)
    (hg : viewGeometryPasses fmt d)
    (hn : ¬ (fits v.aAddr v.aLen d.totalBytes ∧ fits v.bAddr v.bLen (2 * slotCount fmt d))) :
    viewOpFailure fmt d v = some .badBufferSize := by
  rw [viewOpFailure_buffers ha hb, viewFailure_size ha hm hg]
  by_cases hA : fits v.aAddr v.aLen d.totalBytes
  · have hB : ¬ fits v.bAddr v.bLen (2 * slotCount fmt d) := fun hB => hn ⟨hA, hB⟩
    rw [if_pos hA, if_neg hB]
    rfl
  · rw [if_neg hA]
    rfl

theorem exec_cmpv_null (h : v.aAddr = 0 ∨ v.bAddr = 0) (s : State) :
    exec (.cmpv fmt vm v) s = .next (failedWith s 4) :=
  exec_of_effect_failed (i := .cmpv fmt vm v) (code := .nullBuffer) (if_pos h)

/-- The one failure that says something of the comparison: none is modelled for the format (43_component_reader.md R231). -/
theorem exec_cmpv_unmodelled (ha : v.aAddr ≠ 0) (hb : v.bAddr ≠ 0) (hm : ¬ isModelled fmt) (s : State) :
    exec (.cmpv fmt vm v) s = .next { s with status := 0x313, res := .replicate 12 0 } := by
  have heffect : effectCmpv fmt vm v s = .failed .unsupportedFormat .unsupported := by
    simp only [effectCmpv, if_neg (not_or.2 ⟨ha, hb⟩ : ¬ (isNull v.aAddr ∨ isNull v.bAddr)), if_pos hm]
  have hstatus : statusFailed .unsupportedFormat .unsupported = 0x313 := by decide
  rw [exec_eq_complete, show effectOf (.cmpv fmt vm v) s = _ from heffect, complete, raiseFail, hstatus]
  rfl

theorem exec_cmpv_size (ha : v.aAddr ≠ 0) (hb : v.bAddr ≠ 0) (hm : isModelled fmt)
    (hg : viewGeometryPasses fmt (mkDesc fmt v.size vm))
    (hn : ¬ (fits v.aAddr v.aLen (mkDesc fmt v.size vm).totalBytes ∧ fits v.bAddr v.bLen (mkDesc fmt v.size vm).totalBytes))
    (s : State) : exec (.cmpv fmt vm v) s = .next (failedWith s 2) := by
  have hnull : ¬ (isNull v.aAddr ∨ isNull v.bAddr) := not_or.2 ⟨ha, hb⟩
  have heffect : effectCmpv fmt vm v s = .failed .badBufferSize .notMade := by
    simp only [effectCmpv, if_neg hnull, if_neg (not_not.2 hm), viewFailure_size ha hm hg, viewFailure_size hb hm hg]
    by_cases hA : fits v.aAddr v.aLen (mkDesc fmt v.size vm).totalBytes
    · have hB : ¬ fits v.bAddr v.bLen (mkDesc fmt v.size vm).totalBytes := fun hB => hn ⟨hA, hB⟩
      rw [if_pos hA, if_neg hB]
    · rw [if_neg hA]
  exact exec_of_effect_failed (i := .cmpv fmt vm v) heffect

end

/-- Settles O44, check by check. -/
theorem readerChecks : Obligations.ReaderChecks := by
  intro fmt vm v s
  refine ⟨fun hnull => ⟨exec_view_of_failure (viewOpFailure_null hnull) s, exec_cmpv_null hnull s⟩, fun ha hb =>
    ⟨fun hm => ⟨?_, exec_cmpv_unmodelled ha hb hm s⟩, fun hm =>
      ⟨fun hg => ⟨exec_view_badGeometry ha hb hm hg s, exec_cmpv_badGeometry ha hb hm hg s⟩, fun hg =>
        ⟨fun hn => exec_view_of_failure (viewOpFailure_size ha hb hm hg hn) s,
          fun hn => exec_cmpv_size ha hb hm hg hn s⟩⟩⟩⟩
  exact exec_view_of_failure (by rw [viewOpFailure_buffers ha hb, viewFailure_unmodelled ha hm]; rfl) s

end Sys2Proof.Machine
end

section
/-! ## The slots of a view

How many an element has, and what each holds (43_component_reader.md R220 to R227). -/

namespace Sys2Proof.Machine

theorem slotsPerElement_formatOfCode : ∀ n,
    slotsPerElement (formatOfCode n) = [12, 12, 4, 3, 4, 3, 4, 4, 0, 32, 4, 4].getD n 0
  | 0 | 1 | 2 | 3 | 4 | 5 | 6 | 7 | 8 | 9 | 10 | 11 | 12 | _ + 13 => rfl

theorem elementsPerLine_formatOfCode (d : Descriptor) : ∀ n, elementsPerLine (formatOfCode n) d =
    [d.pitch0 / 16, d.pitch0 / 16, d.pitch0 / 4, d.pitch0 / 3, d.pitch0 / 4, d.pitch0 / 6, d.pitch0 / 4, d.pitch0 / 4, 0,
      d.rasterWidth / 16, d.rasterWidth / 2, d.rasterWidth / 2].getD n 0
  | 0 | 1 | 2 | 3 | 4 | 5 | 6 | 7 | 8 | 9 | 10 | 11 | 12 | _ + 13 => rfl

/-- Settles O46: the rows of the two tables, and the length of an element's list of slots. -/
theorem viewGeometry : Obligations.ViewGeometry := fun n _ r vm =>
  ⟨slotsPerElement_formatOfCode n, elementsPerLine_formatOfCode (mkDesc (formatOfCode n) r vm) n, rfl,
    fun p m addr L e => elementSlots_length p _ _ m addr L e⟩

/-- Slot `j` of a 10-bit packed-RGB word, by quotient and remainder (43_component_reader.md R224). -/
theorem groupRGB10P_slot (read : WordReader) (m : Memory) (base : Nat) {j : Nat} (hj : j < 4) :
    (groupRGB10P read m base).getD j 0 = if j = 3 then read m base % 4 else read m base / 2 ^ (22 - 10 * j) % 1024 := by
  rw [groupRGB10P_getD _ _ _ hj, bitsAt_eq]
  split
  · exact congrArg (· % 2 ^ 2) (Nat.div_one _)
  · rfl

/-- Settles O47: an element of a single-plane format is one group of the line codec. -/
theorem packedSlots : Obligations.PackedSlots := by
  intro p fmt d m addr L e j
  refine ⟨?_, ?_, ?_, ?_, ?_, ?_, ?_, ?_⟩ <;> rintro ⟨rfl, hj⟩
  · exact groupBytes_getD 4 m _ hj
  · exact groupBytes_getD 3 m _ hj
  · exact groupBytes_getD 4 m _ hj
  · exact groupRGB48_getD m _ hj
  · exact groupY10P_getD readWordLE m _ hj
  · exact groupY10P_getD readWordBE m _ hj
  · exact groupRGB10P_slot readWordLE m _ hj
  · exact groupRGB10P_slot readWordBE m _ hj

/-! ### The planar formats -/

/-- Where the luma group of element `e` of a line of `Y10_420_PL2` lies (43_component_reader.md R226). -/
def lumaGroupAt (d : Descriptor) (addr line e : Nat) : Nat := addr + line * d.pitch0 + 20 * e

/-- Where the chroma group of element `e` of a chroma line of `Y10_420_PL2` lies (43_component_reader.md R226). -/
def chromaGroupAt (d : Descriptor) (addr chroma e : Nat) : Nat :=
  addr + d.pitch0 * d.fullRasterHeight + chroma * d.pitch1 + 20 * e

/-- Quadruple `q` of an element of `Y10_420_PL2` is Cb, Y, Cr, Y of its chroma group and its luma group. -/
theorem biplanarSlots_getD {l : ParamChoice} {d : Descriptor} {m : Memory} {addr line e q : Nat} (hq : q < 8) :
    let slots := biplanarSlots l d m addr line e
    let y := groupPL2 l m (lumaGroupAt d addr line e)
    let c := groupPL2 l m (chromaGroupAt d addr (line / 2) e)
    slots.getD (4 * q) 0 = c.getD (2 * q) 0 ∧ slots.getD (4 * q + 1) 0 = y.getD (2 * q) 0 ∧
      slots.getD (4 * q + 2) 0 = c.getD (2 * q + 1) 0 ∧ slots.getD (4 * q + 3) 0 = y.getD (2 * q + 1) 0 := by
  intro slots y c
  have hslot : ∀ r < 4, slots.getD (4 * q + r) 0 =
      [c.getD (2 * q) 0, y.getD (2 * q) 0, c.getD (2 * q + 1) 0, y.getD (2 * q + 1) 0].getD r 0 := fun r hr => by
    rw [List.getD_eq_getElem?_getD, List.getD_eq_getElem?_getD]
    exact congrArg (Option.getD · 0) (getElem?_flatMap_range (n := 4) _ (fun _ => rfl) hq hr)
  exact ⟨hslot 0 (by decide), hslot 1 (by decide), hslot 2 (by decide), hslot 3 (by decide)⟩

/-- Settles O48: the 3-plane slots are the definition's with its plane offsets written out. (The model's list of them has
the shorter name.) -/
theorem Reader.planarSlots : Obligations.PlanarSlots := by
  intro p fmt r vm m addr L e
  refine ⟨?_, ?_⟩
  · rintro (rfl | rfl) <;> rfl
  · rintro rfl q hq
    exact biplanarSlots_getD hq

/-! ### What `VIEW` writes -/

/-- Settles O45: slot `j` of element `e` of line `L` is number `(L E + e) n + j` of the view, and is below 2^16. -/
theorem viewWritesTheSlots : Obligations.ViewWritesTheSlots := by
  intro fmt vm v s d E n hm hready
  obtain ⟨t, ht, hended, hdrawn, hcells⟩ := view_completes (rising_of_wf hm) hready
  refine ⟨t, (exec_eq_complete _ s).trans ht, hended, hdrawn, fun L hL e he j hj => ?_⟩
  have hlt : j < (elementSlots s.params fmt d s.mem v.aAddr L e).length := (elementSlots_length ..).symm ▸ hj
  have hslot := (viewSlots_getElem? hL he hj).trans (List.getElem?_eq_getElem hlt)
  rw [hcells _ _ hslot, List.getD_eq_getElem _ _ hlt]
  exact Nat.mod_eq_of_lt (elementSlots_lt _ _ _ _ _ _ _ _ (List.getElem_mem hlt))

end Sys2Proof.Machine
end

section
/-! ## `CMPV`

What it answers where it is ready (43_component_reader.md R229, R230), and what a comparison comes to where the elements of a
single-plane raster lie end to end. -/

namespace Sys2Proof.Machine

theorem ignoredSlot_eq_true_iff {fmt : PixelFormat} {j : Nat} :
    ignoredSlot fmt j = true ↔ (fmt = .rgb10p ∨ fmt = .rgb10pBE) ∧ j = 3 := by
  cases fmt <;> simp [ignoredSlot]

theorem ignoredSlot_eq_false_iff {fmt : PixelFormat} {j : Nat} :
    ignoredSlot fmt j = false ↔ ¬ ((fmt = .rgb10p ∨ fmt = .rgb10pBE) ∧ j = 3) := by
  rw [← ignoredSlot_eq_true_iff, Bool.not_eq_true]

section
variable {fmt : PixelFormat} {vm : Bool} {v : ViewArgs} {s : State}

/-- `CMPV` where it is ready and its answer is known. -/
theorem exec_cmpv_of_viewsEqual {equal : Bool} (h : CompareReady fmt (mkDesc fmt v.size vm) v s)
    (he : viewsEqual s.params fmt (mkDesc fmt v.size vm) s.mem v.aAddr v.bAddr = equal) :
    exec (.cmpv fmt vm v) s = .next { s with status := if equal then 0x101 else 0x201, res := .replicate 12 0 } := by
  rw [← he]
  exact (exec_eq_complete _ s).trans (cmpv_completes h)

/-- `CMPV` where it is ready says which of the two answers it found in `STATUS`. -/
theorem exec_cmpv_status (h : CompareReady fmt (mkDesc fmt v.size vm) v s) :
    ∃ t, exec (.cmpv fmt vm v) s = .next t ∧
      (t.status = 0x101 ↔ viewsEqual s.params fmt (mkDesc fmt v.size vm) s.mem v.aAddr v.bAddr = true) ∧
      (t.status = 0x201 ↔ viewsEqual s.params fmt (mkDesc fmt v.size vm) s.mem v.aAddr v.bAddr = false) := by
  refine ⟨_, exec_cmpv_of_viewsEqual h rfl, ?_⟩
  cases viewsEqual s.params fmt (mkDesc fmt v.size vm) s.mem v.aAddr v.bAddr with
  | true => exact ⟨iff_of_true rfl rfl, iff_of_false (by simp) (by decide)⟩
  | false => exact ⟨iff_of_false (by simp) (by decide), iff_of_true rfl rfl⟩

end

/-- Settles O49: the slots that are not ignored are those that are not an alpha slot of the family. -/
theorem compareViews : Obligations.CompareViews := by
  intro fmt vm v s d agree hready
  have hagree : viewsEqual s.params fmt d s.mem v.aAddr v.bAddr = true ↔ agree := by
    simp only [viewsEqual_iff, ignoredSlot_eq_false_iff, agree]
  exact ⟨fun h => exec_cmpv_of_viewsEqual hready (hagree.2 h),
    fun h => exec_cmpv_of_viewsEqual hready (Bool.eq_false_iff.2 (mt hagree.1 h))⟩

theorem viewsEqual_self (p : Params) (fmt : PixelFormat) (d : Descriptor) (m : Memory) (a : Nat) :
    viewsEqual p fmt d m a a = true := by
  rw [viewsEqual_iff]
  intros
  rfl

/-- Settles O50: each slot is compared with itself. -/
theorem compareIsReflexive : Obligations.CompareIsReflexive := by
  intro fmt vm v s haddr _ hready
  refine exec_cmpv_of_viewsEqual (equal := true) hready ?_
  rw [haddr]
  exact viewsEqual_self ..

/-! ### Elements -/

section
variable {p : Params} {fmt : PixelFormat} {d : Descriptor} {m : Memory} {a b : Nat}

theorem slotsAgree_iff {xs ys : List Nat} :
    slotsAgree fmt xs ys = true ↔
      ∀ j < slotsPerElement fmt, ignoredSlot fmt j = false → xs.getD j 0 = ys.getD j 0 := by
  simp only [slotsAgree, List.all_eq_true, List.mem_range, Bool.or_eq_true, decide_eq_true_eq, or_iff_not_imp_left,
    Bool.not_eq_true]

/-- Outside the 10-bit packed-RGB family the slots of two elements agree when they are the same. -/
theorem slotsAgree_iff_eq (hfmt : ∀ j, ignoredSlot fmt j = false) {xs ys : List Nat} (hx : xs.length = slotsPerElement fmt)
    (hy : ys.length = slotsPerElement fmt) : slotsAgree fmt xs ys = true ↔ xs = ys := by
  rw [slotsAgree_iff]
  exact ⟨fun h => ext_getD hx hy fun j hj => h j hj (hfmt j), fun h j _ _ => h ▸ rfl⟩

theorem viewsEqual_iff_elements :
    viewsEqual p fmt d m a b = true ↔ ∀ line < d.fullRasterHeight, ∀ e < elementsPerLine fmt d,
      slotsAgree fmt (elementSlots p fmt d m a line e) (elementSlots p fmt d m b line e) = true := by
  simp only [viewsEqual, List.all_eq_true, List.mem_range]

/-- Outside the 10-bit packed-RGB family two views are equal when every element is the same. -/
theorem viewsEqual_iff_eq (hfmt : ∀ j, ignoredSlot fmt j = false) :
    viewsEqual p fmt d m a b = true ↔ ∀ line < d.fullRasterHeight, ∀ e < elementsPerLine fmt d,
      elementSlots p fmt d m a line e = elementSlots p fmt d m b line e := by
  rw [viewsEqual_iff_elements]
  exact forall₄_congr fun line _ e _ => slotsAgree_iff_eq hfmt (elementSlots_length ..) (elementSlots_length ..)

end

/-! ### Single-plane rasters -/

/-- A single-plane format whose elements are groups of `gB` bytes read by `group` (43_component_reader.md R221 to R224). -/
structure SinglePlane (fmt : PixelFormat) (gB : Nat) (group : Memory → Nat → List Nat) : Prop where
  planes : planeCount fmt = 1
  bytes : (elementGeometry fmt).bytesPerElement = gB
  perLine : ∀ d, elementsPerLine fmt d = d.pitch0 / gB
  slots : ∀ p d m addr line e, elementSlots p fmt d m addr line e = group m (addr + line * d.pitch0 + e * gB)
  totalBytes : ∀ r vm, (mkDesc fmt r vm).totalBytes = (mkDesc fmt r vm).pitch0 * (mkDesc fmt r vm).fullRasterHeight

/-- The elements of a raster. -/
abbrev elementCount (fmt : PixelFormat) (d : Descriptor) : Nat := d.fullRasterHeight * elementsPerLine fmt d

theorem singlePlane_y8p : SinglePlane .y8p 4 (groupBytes 4) :=
  ⟨rfl, rfl, fun _ => rfl, fun _ _ _ _ _ _ => rfl, fun _ _ => rfl⟩
theorem singlePlane_rgb24 : SinglePlane .rgb24 3 (groupBytes 3) :=
  ⟨rfl, rfl, fun _ => rfl, fun _ _ _ _ _ _ => rfl, fun _ _ => rfl⟩
theorem singlePlane_rgba32 : SinglePlane .rgba32 4 (groupBytes 4) :=
  ⟨rfl, rfl, fun _ => rfl, fun _ _ _ _ _ _ => rfl, fun _ _ => rfl⟩
theorem singlePlane_rgb48 : SinglePlane .rgb48 6 groupRGB48 :=
  ⟨rfl, rfl, fun _ => rfl, fun _ _ _ _ _ _ => rfl, fun _ _ => rfl⟩
theorem singlePlane_y10p : SinglePlane .y10p 16 (groupY10P readWordLE) :=
  ⟨rfl, rfl, fun _ => rfl, fun _ _ _ _ _ _ => rfl, fun _ _ => rfl⟩
theorem singlePlane_y10pBE : SinglePlane .y10pBE 16 (groupY10P readWordBE) :=
  ⟨rfl, rfl, fun _ => rfl, fun _ _ _ _ _ _ => rfl, fun _ _ => rfl⟩
theorem singlePlane_rgb10p : SinglePlane .rgb10p 4 (groupRGB10P readWordLE) :=
  ⟨rfl, rfl, fun _ => rfl, fun _ _ _ _ _ _ => rfl, fun _ _ => rfl⟩
theorem singlePlane_rgb10pBE : SinglePlane .rgb10pBE 4 (groupRGB10P readWordBE) :=
  ⟨rfl, rfl, fun _ => rfl, fun _ _ _ _ _ _ => rfl, fun _ _ => rfl⟩

namespace SinglePlane

variable {fmt : PixelFormat} {gB : Nat} {group : Memory → Nat → List Nat} {r : RasterSize} {vm : Bool}

/-- A line is whole elements, which is what the geometry check asks (43_component_reader.md R228). -/
theorem pitch0_eq (h : SinglePlane fmt gB group) (hg : viewGeometryPasses fmt (mkDesc fmt r vm)) :
    (mkDesc fmt r vm).pitch0 = gB * elementsPerLine fmt (mkDesc fmt r vm) := by
  have hwhole := hg.2 h.planes
  rw [h.bytes] at hwhole
  rw [h.perLine, Nat.mul_div_cancel' (Nat.dvd_of_mod_eq_zero hwhole)]

theorem totalBytes_eq (h : SinglePlane fmt gB group) (hg : viewGeometryPasses fmt (mkDesc fmt r vm)) :
    (mkDesc fmt r vm).totalBytes = elementCount fmt (mkDesc fmt r vm) * gB := by
  rw [h.totalBytes, h.pitch0_eq hg]
  ring

/-- The elements lie end to end: two views are equal when the groups of the two rasters agree, each as an element. -/
theorem viewsEqual_iff (h : SinglePlane fmt gB group) (hg : viewGeometryPasses fmt (mkDesc fmt r vm)) {p : Params}
    {m : Memory} {a b : Nat} :
    viewsEqual p fmt (mkDesc fmt r vm) m a b = true ↔ ∀ k < elementCount fmt (mkDesc fmt r vm),
      slotsAgree fmt (group m (a + gB * k)) (group m (b + gB * k)) = true := by
  have hplace : ∀ addr line e, addr + line * (mkDesc fmt r vm).pitch0 + e * gB =
      addr + gB * (elementsPerLine fmt (mkDesc fmt r vm) * line + e) := fun addr line e => by
    rw [h.pitch0_eq hg]
    ring
  simp only [viewsEqual_iff_elements, h.slots, hplace, forall_lt_groups (n := elementsPerLine fmt (mkDesc fmt r vm))]

/-- Where agreeing as an element is being the same bytes, two views are equal when the rasters are. -/
theorem viewsEqual_iff_bytes (h : SinglePlane fmt gB group)
    (hslots : ∀ m a b, slotsAgree fmt (group m a) (group m b) = true ↔ SameBytes gB m a m b)
    (hg : viewGeometryPasses fmt (mkDesc fmt r vm)) {p : Params} {m : Memory} {a b : Nat} :
    viewsEqual p fmt (mkDesc fmt r vm) m a b = true ↔ SameBytes (mkDesc fmt r vm).totalBytes m a m b := by
  rw [h.viewsEqual_iff hg, h.totalBytes_eq hg, sameBytes_groups]
  exact forall₂_congr fun k _ => hslots ..

/-- Where agreeing as an element is agreeing word by word in some part, two views are equal when the words of the rasters
agree in that part. -/
theorem viewsEqual_iff_words {n : Nat} (h : SinglePlane fmt (4 * n) group) {read : WordReader} {part : Nat → Nat}
    (hslots : ∀ m a b, slotsAgree fmt (group m a) (group m b) = true ↔
      ∀ i < n, part (read m (a + 4 * i)) = part (read m (b + 4 * i)))
    (hg : viewGeometryPasses fmt (mkDesc fmt r vm)) {p : Params} {m : Memory} {a b : Nat} :
    viewsEqual p fmt (mkDesc fmt r vm) m a b = true ↔
      ∀ k < (mkDesc fmt r vm).totalBytes / 4, part (read m (a + 4 * k)) = part (read m (b + 4 * k)) := by
  have hwords : (mkDesc fmt r vm).totalBytes / 4 = elementCount fmt (mkDesc fmt r vm) * n := by
    rw [h.totalBytes_eq hg, Nat.mul_left_comm, Nat.mul_div_cancel_left _ (by decide)]
  have hplace : ∀ addr k i, addr + 4 * (n * k + i) = addr + 4 * n * k + 4 * i := fun addr k i => by ring
  simp only [h.viewsEqual_iff hg, hslots, hwords, forall_lt_groups (n := n), hplace]

end SinglePlane

end Sys2Proof.Machine
end

section
/-! ## `CMPV` of the single-plane formats

Which bytes or bits of a raster a comparison decides (43_component_reader.md R230, R232). -/

namespace Sys2Proof.Machine

/-! ### The 10-bit packed-RGB family -/

/-- The mask of the colour bits leaves out the two alpha bits (43_component_reader.md R230). -/
theorem and_colourMask {w : Nat} (h : w < 2 ^ 32) : w &&& 0xFFFFFFFC = 4 * (w / 4) := by
  have hhigh : (w &&& 0xFFFFFFFC) / 2 ^ 2 = w / 2 ^ 2 := by
    rw [Nat.and_div_two_pow, show 0xFFFFFFFC / 2 ^ 2 = 2 ^ 30 - 1 from rfl, Nat.and_two_pow_sub_one_eq_mod]
    exact Nat.mod_eq_of_lt (by omega)
  have hlow : (w &&& 0xFFFFFFFC) % 2 ^ 2 = 0 := by
    rw [Nat.and_mod_two_pow]
    exact Nat.and_zero _
  omega

/-- The three colours make up the word under the mask. -/
theorem colours_iff {v w : Nat} (hv : v < 2 ^ 32) (hw : w < 2 ^ 32) :
    (∀ j < 3, bitsAt v (22 - 10 * j) 10 = bitsAt w (22 - 10 * j) 10) ↔ v &&& 0xFFFFFFFC = w &&& 0xFFFFFFFC := by
  rw [and_colourMask hv, and_colourMask hw]
  simp only [bitsAt_eq, Nat.forall_lt_succ_left, Nat.not_lt_zero, false_imp_iff, forall_const, and_true]
  norm_num
  omega

/-- Two elements of the family agree when their words do under the mask: the slot that is ignored is the alpha. -/
theorem slotsAgree_rgb {fmt : PixelFormat} (hfmt : fmt = .rgb10p ∨ fmt = .rgb10pBE) {read : WordReader} {write : WordWriter}
    (ho : WordOrder read write) (m : Memory) (a b : Nat) :
    slotsAgree fmt (groupRGB10P read m a) (groupRGB10P read m b) = true ↔
      ∀ i < 1, read m (a + 4 * i) &&& 0xFFFFFFFC = read m (b + 4 * i) &&& 0xFFFFFFFC := by
  have hslots : slotsPerElement fmt = 4 := by rcases hfmt with rfl | rfl <;> rfl
  calc slotsAgree fmt (groupRGB10P read m a) (groupRGB10P read m b) = true
      ↔ ∀ j < 3, (groupRGB10P read m a).getD j 0 = (groupRGB10P read m b).getD j 0 := by
        simp only [slotsAgree_iff, hslots, ignoredSlot_eq_false_iff, hfmt, true_and]
        exact ⟨fun h j hj => h j (by omega) (by omega), fun h j hj hj3 => h j (by omega)⟩
    _ ↔ ∀ j < 3, bitsAt (read m a) (22 - 10 * j) 10 = bitsAt (read m b) (22 - 10 * j) 10 :=
        forall₂_congr fun j hj => by
          rw [groupRGB10P_getD _ _ _ (by omega : j < 4), groupRGB10P_getD _ _ _ (by omega : j < 4),
            if_neg (by omega : ¬ j = 3), if_neg (by omega : ¬ j = 3)]
    _ ↔ _ := by
        rw [colours_iff (ho.lt m a) (ho.lt m b)]
        simp only [Nat.lt_one_iff, forall_eq, Nat.mul_zero, Nat.add_zero]

/-- `CMPV` of a format of the family, by its pixel words. -/
theorem exec_cmpv_rgb {fmt : PixelFormat} (hfmt : fmt = .rgb10p ∨ fmt = .rgb10pBE) {read : WordReader} {write : WordWriter}
    (ho : WordOrder read write) (h : SinglePlane fmt (4 * 1) (groupRGB10P read)) {vm : Bool} {v : ViewArgs} {s : State}
    (hready : CompareReady fmt (mkDesc fmt v.size vm) v s) :
    let agree := ∀ k < (mkDesc fmt v.size vm).totalBytes / 4,
      read s.mem (v.aAddr + 4 * k) &&& 0xFFFFFFFC = read s.mem (v.bAddr + 4 * k) &&& 0xFFFFFFFC
    ∃ t, exec (.cmpv fmt vm v) s = .next t ∧ (agree → t.status = 0x101) ∧ (¬ agree → t.status = 0x201) := by
  intro agree
  obtain ⟨t, ht, hequal, hnot⟩ := exec_cmpv_status hready
  have hagree : viewsEqual s.params fmt (mkDesc fmt v.size vm) s.mem v.aAddr v.bAddr = true ↔ agree :=
    h.viewsEqual_iff_words (part := (· &&& 0xFFFFFFFC)) (slotsAgree_rgb hfmt ho) hready.geometry
  exact ⟨t, ht, fun hall => hequal.2 (hagree.2 hall), fun hsome => hnot.2 (Bool.eq_false_iff.2 (mt hagree.1 hsome))⟩

/-- Settles O51: the elements of the raster are its pixel words, in either byte order. -/
theorem compareIgnoresAlphaBits : Obligations.CompareIgnoresAlphaBits := by
  intro row hrow vm v s
  simp only [List.mem_cons, List.not_mem_nil, or_false] at hrow
  rcases hrow with rfl | rfl
  · exact exec_cmpv_rgb (.inl rfl) wordOrderLE singlePlane_rgb10p
  · exact exec_cmpv_rgb (.inr rfl) wordOrderBE singlePlane_rgb10pBE

/-! ### `Y10P` and `Y10P_BE` -/

/-- The three fields make up the word but for its bits 31:30. -/
theorem tenBitFields_iff {v w : Nat} :
    (∀ r < 3, bitsAt v (10 * r) 10 = bitsAt w (10 * r) 10) ↔ v % 2 ^ 30 = w % 2 ^ 30 := by
  simp only [bitsAt_eq, Nat.forall_lt_succ_left, Nat.not_lt_zero, false_imp_iff, forall_const, and_true]
  norm_num
  omega

theorem groupY10P_eq_iff {read : WordReader} {m : Memory} {a b : Nat} :
    groupY10P read m a = groupY10P read m b ↔ ∀ i < 4, read m (a + 4 * i) % 2 ^ 30 = read m (b + 4 * i) % 2 ^ 30 := by
  calc groupY10P read m a = groupY10P read m b
      ↔ ∀ j < 4 * 3, (groupY10P read m a).getD j 0 = (groupY10P read m b).getD j 0 :=
        ⟨fun h j _ => by rw [h], ext_getD (groupY10P_length ..) (groupY10P_length ..)⟩
    _ ↔ ∀ i < 4, ∀ r < 3, bitsAt (read m (a + 4 * i)) (10 * r) 10 = bitsAt (read m (b + 4 * i)) (10 * r) 10 := by
        rw [forall_lt_groups]
        refine forall₄_congr fun i hi r hr => ?_
        have hdiv : (3 * i + r) / 3 = i := by omega
        have hmod : (3 * i + r) % 3 = r := by omega
        have hj : 3 * i + r < 12 := by omega
        rw [groupY10P_getD _ _ _ hj, groupY10P_getD _ _ _ hj, hdiv, hmod]
    _ ↔ _ := forall₂_congr fun i _ => tenBitFields_iff

theorem slotsAgree_tenBit {fmt : PixelFormat} (hfmt : fmt = .y10p ∨ fmt = .y10pBE) (read : WordReader) (m : Memory)
    (a b : Nat) : slotsAgree fmt (groupY10P read m a) (groupY10P read m b) = true ↔
      ∀ i < 4, read m (a + 4 * i) % 2 ^ 30 = read m (b + 4 * i) % 2 ^ 30 := by
  rw [← groupY10P_eq_iff]
  rcases hfmt with rfl | rfl <;> exact slotsAgree_iff_eq (fun _ => rfl) (groupY10P_length ..) (groupY10P_length ..)

/-! ### Whole bytes -/

theorem groupBytes_eq_iff {n : Nat} {m : Memory} {a b : Nat} :
    groupBytes n m a = groupBytes n m b ↔ SameBytes n m a m b := by
  constructor
  · intro h
    have hsame := (groupCodec_bytes n).bytes_of_group h trivial trivial
    rwa [Nat.one_mul] at hsame
  · intro h
    refine ext_getD (groupBytes_length ..) (groupBytes_length ..) fun j hj => ?_
    rw [groupBytes_getD _ _ _ hj, groupBytes_getD _ _ _ hj, memRead_one, memRead_one, h j hj]

/-- Two elements of bytes agree when they are the same bytes. -/
theorem slotsAgree_bytes {fmt : PixelFormat} {n : Nat} (hfmt : ∀ j, ignoredSlot fmt j = false)
    (hn : slotsPerElement fmt = n) (m : Memory) (a b : Nat) :
    slotsAgree fmt (groupBytes n m a) (groupBytes n m b) = true ↔ SameBytes n m a m b := by
  rw [slotsAgree_iff_eq hfmt (hn ▸ groupBytes_length ..) (hn ▸ groupBytes_length ..), groupBytes_eq_iff]

theorem groupRGB48_eq_iff {m : Memory} {a b : Nat} : groupRGB48 m a = groupRGB48 m b ↔ SameBytes 6 m a m b := by
  refine ⟨fun h => groupCodec_rgb48.bytes_of_group h trivial trivial, fun h => ?_⟩
  refine ext_getD (groupRGB48_length ..) (groupRGB48_length ..) fun j hj => ?_
  rw [groupRGB48_getD _ _ hj, groupRGB48_getD _ _ hj]
  refine memRead_congr fun i hi => ?_
  rw [Nat.add_assoc, Nat.add_assoc]
  exact h _ (by omega)

end Sys2Proof.Machine
end

section
/-! ## `CMPV` of the planar formats

The planes of a raster, line by line and element by element (43_component_reader.md R225, R226, R232). -/

namespace Sys2Proof.Machine

/-- A run of bytes in two parts. -/
theorem sameBytes_add {m m' : Memory} {a a' n k : Nat} :
    SameBytes (n + k) m a m' a' ↔ SameBytes n m a m' a' ∧ SameBytes k m (a + n) m' (a' + n) := by
  refine ⟨fun h => ⟨fun i hi => h i (by omega), fun i hi => ?_⟩, fun ⟨hfirst, hrest⟩ i hi => ?_⟩
  · rw [Nat.add_assoc, Nat.add_assoc]
    exact h _ (by omega)
  · rcases Nat.lt_or_ge i n with hin | hni
    · exact hfirst i hin
    · have hbyte := hrest (i - n) (by omega)
      rwa [Nat.add_assoc, Nat.add_assoc, Nat.add_sub_cancel' hni] at hbyte

/-- A plane whose lines are whole elements of `n` bytes. -/
theorem sameBytes_plane {m : Memory} {x y lines pitch count n : Nat} (hpitch : pitch = count * n) :
    (∀ line < lines, ∀ e < count, SameBytes n m (x + line * pitch + n * e) m (y + line * pitch + n * e)) ↔
      SameBytes (pitch * lines) m x m y := by
  rw [Nat.mul_comm pitch, sameBytes_groups]
  refine forall₂_congr fun line _ => ?_
  rw [Nat.mul_comm line]
  conv_rhs => rw [hpitch]
  rw [sameBytes_groups, hpitch]

/-- In a 4:2:0 raster each chroma line is that of two lines. -/
theorem forall_lt_half {n : Nat} (heven : n % 2 = 0) {P : Nat → Prop} : (∀ line < n, P (line / 2)) ↔ ∀ c < n / 2, P c := by
  refine ⟨fun hP c hc => ?_, fun hP line hline => hP _ (by omega)⟩
  have hline := hP (2 * c) (by omega)
  rwa [Nat.mul_div_cancel_left c (by decide)] at hline

theorem fullRasterHeight_even {fmt : PixelFormat} {r : RasterSize} {vm : Bool} (h420 : is420 fmt = true)
    (hg : viewGeometryPasses fmt (mkDesc fmt r vm)) : (mkDesc fmt r vm).fullRasterHeight % 2 = 0 :=
  (of_decide_eq_true hg.1).2.2.2 h420

/-! ### Three planes -/

/-- The descriptor of a three-plane raster and the chroma line of each line, which is every chroma line in turn
(40_catalog_descriptor.md R125, R126, 43_component_reader.md R225). -/
structure ThreePlane (d : Descriptor) (chroma : Nat → Nat) : Prop where
  lumaPitch : d.pitch0 = d.rasterWidth / 2 * 2
  chromaPitch : d.pitch1 = d.rasterWidth / 2 * 1
  lumaLines : d.lines0 = d.fullRasterHeight
  chromaLines : ∀ P : Nat → Prop, (∀ line < d.fullRasterHeight, P (chroma line)) ↔ ∀ c < d.lines1, P c
  totalBytes : d.totalBytes = d.pitch0 * d.lines0 + d.pitch1 * d.lines1 + d.pitch1 * d.lines1

theorem planarSlots_eq_iff {d : Descriptor} {m : Memory} {a b line c e : Nat} :
    planarSlots d m a line c e = planarSlots d m b line c e ↔
      SameBytes 1 m (a + planeBase1 d + c * d.pitch1 + 1 * e) m (b + planeBase1 d + c * d.pitch1 + 1 * e) ∧
      SameBytes 2 m (a + line * d.pitch0 + 2 * e) m (b + line * d.pitch0 + 2 * e) ∧
      SameBytes 1 m (a + planeBase2 d + c * d.pitch1 + 1 * e) m (b + planeBase2 d + c * d.pitch1 + 1 * e) := by
  have byte : ∀ x y, memRead m x 1 = memRead m y 1 ↔ SameBytes 1 m x m y := fun x y => ⟨memRead_inj, memRead_congr⟩
  have two : ∀ x y, SameBytes 2 m x m y ↔ SameBytes 1 m x m y ∧ SameBytes 1 m (x + 1) m (y + 1) := fun x y =>
    sameBytes_add (n := 1) (k := 1)
  simp only [planarSlots, List.cons.injEq, and_true, byte, two, Nat.one_mul]
  tauto

/-- A chroma plane, read line by line of the raster. -/
theorem ThreePlane.sameBytes_chroma {d : Descriptor} {chroma : Nat → Nat} (h : ThreePlane d chroma) {m : Memory}
    {x y : Nat} :
    (∀ line < d.fullRasterHeight, ∀ e < d.rasterWidth / 2,
      SameBytes 1 m (x + chroma line * d.pitch1 + 1 * e) m (y + chroma line * d.pitch1 + 1 * e)) ↔
        SameBytes (d.pitch1 * d.lines1) m x m y :=
  (h.chromaLines fun c => ∀ e < d.rasterWidth / 2,
    SameBytes 1 m (x + c * d.pitch1 + 1 * e) m (y + c * d.pitch1 + 1 * e)).trans (sameBytes_plane h.chromaPitch)

/-- The elements of a three-plane raster are the bytes of its planes. -/
theorem ThreePlane.planarSlots_iff_bytes {d : Descriptor} {chroma : Nat → Nat} (h : ThreePlane d chroma) {m : Memory}
    {a b : Nat} :
    (∀ line < d.fullRasterHeight, ∀ e < d.rasterWidth / 2,
      planarSlots d m a line (chroma line) e = planarSlots d m b line (chroma line) e) ↔ SameBytes d.totalBytes m a m b := by
  simp only [planarSlots_eq_iff, forall_and, h.sameBytes_chroma, sameBytes_plane h.lumaPitch]
  rw [h.totalBytes, sameBytes_add, sameBytes_add, planeBase1, planeBase2, h.lumaLines, ← Nat.add_assoc, ← Nat.add_assoc,
    and_left_comm, and_assoc]

theorem threePlane_422 (r : RasterSize) (vm : Bool) : ThreePlane (mkDesc .y8_422pl3 r vm) id where
  lumaPitch := Nat.mul_comm ..
  chromaPitch := (Nat.mul_one _).symm
  lumaLines := rfl
  chromaLines _ := Iff.rfl
  totalBytes := rfl

theorem threePlane_420 {r : RasterSize} {vm : Bool} (hg : viewGeometryPasses .y8_420pl3 (mkDesc .y8_420pl3 r vm)) :
    ThreePlane (mkDesc .y8_420pl3 r vm) (· / 2) where
  lumaPitch := Nat.mul_comm ..
  chromaPitch := (Nat.mul_one _).symm
  lumaLines := rfl
  chromaLines _ := forall_lt_half (fullRasterHeight_even rfl hg)
  totalBytes := rfl

/-- The formats in which every byte of the raster is in the view (43_component_reader.md R232). -/
theorem viewsEqual_iff_bytes {fmt : PixelFormat} (hfmt : fmt ∈ [.y8p, .rgb24, .rgba32, .rgb48, .y8_422pl3, .y8_420pl3])
    {r : RasterSize} {vm : Bool} (hg : viewGeometryPasses fmt (mkDesc fmt r vm)) {p : Params} {m : Memory} {a b : Nat} :
    viewsEqual p fmt (mkDesc fmt r vm) m a b = true ↔ SameBytes (mkDesc fmt r vm).totalBytes m a m b := by
  simp only [List.mem_cons, List.not_mem_nil, or_false] at hfmt
  rcases hfmt with rfl | rfl | rfl | rfl | rfl | rfl
  · exact singlePlane_y8p.viewsEqual_iff_bytes (slotsAgree_bytes (fun _ => rfl) rfl) hg
  · exact singlePlane_rgb24.viewsEqual_iff_bytes (slotsAgree_bytes (fun _ => rfl) rfl) hg
  · exact singlePlane_rgba32.viewsEqual_iff_bytes (slotsAgree_bytes (fun _ => rfl) rfl) hg
  · exact singlePlane_rgb48.viewsEqual_iff_bytes (fun m a b =>
      (slotsAgree_iff_eq (fun _ => rfl) (groupRGB48_length ..) (groupRGB48_length ..)).trans groupRGB48_eq_iff) hg
  · exact (viewsEqual_iff_eq fun _ => rfl).trans (threePlane_422 r vm).planarSlots_iff_bytes
  · exact (viewsEqual_iff_eq fun _ => rfl).trans (threePlane_420 hg).planarSlots_iff_bytes

/-- Settles O52: by bytes where every byte is in the view, by words but for their bits 31:30 for `Y10P` and `Y10P_BE`. -/
theorem compareIsByteEquality : Obligations.CompareIsByteEquality := by
  intro fmt vm v s d hready
  obtain ⟨t, ht, hequal, -⟩ := exec_cmpv_status hready
  refine ⟨t, ht, fun hfmt => ?_, ?_, ?_⟩
  · exact hequal.trans (viewsEqual_iff_bytes hfmt hready.geometry)
  · rintro rfl
    exact hequal.trans (singlePlane_y10p.viewsEqual_iff_words (n := 4) (read := readWordLE) (part := (· % 2 ^ 30))
      (slotsAgree_tenBit (.inl rfl) _) hready.geometry)
  · rintro rfl
    exact hequal.trans (singlePlane_y10pBE.viewsEqual_iff_words (n := 4) (read := readWordBE) (part := (· % 2 ^ 30))
      (slotsAgree_tenBit (.inr rfl) _) hready.geometry)

/-! ### Two planes -/

/-- Lists made of `n` pairs that hold the same pairs are the same. -/
theorem ext_getD_pairs {n : Nat} {xs ys : List Nat} (hx : xs.length = 2 * n) (hy : ys.length = 2 * n)
    (h : ∀ q < n, xs.getD (2 * q) 0 = ys.getD (2 * q) 0 ∧ xs.getD (2 * q + 1) 0 = ys.getD (2 * q + 1) 0) : xs = ys := by
  refine ext_getD hx hy fun j hj => ?_
  obtain ⟨heven, hodd⟩ := h (j / 2) (by omega)
  rcases Nat.mod_two_eq_zero_or_one j with hj2 | hj2
  · rwa [show 2 * (j / 2) = j by omega] at heven
  · rwa [show 2 * (j / 2) + 1 = j by omega] at hodd

/-- An element of `Y10_420_PL2` is the bytes of its luma group and of its chroma group, whatever the layout is. -/
theorem biplanarSlots_eq_iff {l : ParamChoice} {d : Descriptor} {m : Memory} {a b line e : Nat} :
    biplanarSlots l d m a line e = biplanarSlots l d m b line e ↔
      SameBytes 20 m (lumaGroupAt d a line e) m (lumaGroupAt d b line e) ∧
        SameBytes 20 m (chromaGroupAt d a (line / 2) e) m (chromaGroupAt d b (line / 2) e) := by
  have hgroup : ∀ x y, SameBytes 20 m x m y ↔ groupPL2 l m x = groupPL2 l m y := fun x y => groupPL2_eq_iff.symm
  rw [hgroup, hgroup]
  constructor
  · intro h
    have hquad (addr : Nat) {q : Nat} (hq : q < 8) :=
      biplanarSlots_getD (l := l) (d := d) (m := m) (addr := addr) (line := line) (e := e) hq
    constructor <;> refine ext_getD_pairs (n := 8) (groupPL2_length ..) (groupPL2_length ..) fun q hq => ?_
    · obtain ⟨-, hfirst, -, hsecond⟩ := hquad a hq
      obtain ⟨-, hfirst', -, hsecond'⟩ := hquad b hq
      exact ⟨by rw [← hfirst, h, hfirst'], by rw [← hsecond, h, hsecond']⟩
    · obtain ⟨hfirst, -, hsecond, -⟩ := hquad a hq
      obtain ⟨hfirst', -, hsecond', -⟩ := hquad b hq
      exact ⟨by rw [← hfirst, h, hfirst'], by rw [← hsecond, h, hsecond']⟩
  · rintro ⟨hluma, hchroma⟩
    simp only [lumaGroupAt, chromaGroupAt] at hluma hchroma
    rw [biplanarSlots, biplanarSlots, hluma, hchroma]

/-- Settles O60: the whole groups of a line are its first bytes, and every chroma line is that of two lines. -/
theorem compareTwoPlaneIsByteEquality : Obligations.CompareTwoPlaneIsByteEquality := by
  intro vm v s d lineBytes same hready
  obtain ⟨t, ht, hequal, -⟩ := exec_cmpv_status hready
  have heven : d.fullRasterHeight % 2 = 0 := fullRasterHeight_even rfl hready.geometry
  have hline : ∀ offset, (∀ e < v.size.width / 16,
      SameBytes 20 s.mem (v.aAddr + offset + 20 * e) s.mem (v.bAddr + offset + 20 * e)) ↔
        ∀ k < lineBytes, same (offset + k) := fun offset =>
    sameBytes_groups.symm.trans (by simp only [SameBytes, lineBytes, same, Nat.mul_comm 20, Nat.add_assoc])
  have hchroma : ∀ addr c e,
      chromaGroupAt d addr c e = addr + (d.pitch0 * d.fullRasterHeight + c * d.pitch1) + 20 * e := fun addr c e => by
    rw [chromaGroupAt, Nat.add_assoc addr]
  refine ⟨t, ht, hequal.trans ?_⟩
  calc viewsEqual s.params .y10_420pl2 d s.mem v.aAddr v.bAddr = true
      ↔ ∀ line < d.fullRasterHeight, ∀ e < v.size.width / 16,
          SameBytes 20 s.mem (lumaGroupAt d v.aAddr line e) s.mem (lumaGroupAt d v.bAddr line e) ∧
            SameBytes 20 s.mem (chromaGroupAt d v.aAddr (line / 2) e) s.mem (chromaGroupAt d v.bAddr (line / 2) e) :=
        (viewsEqual_iff_eq fun _ => rfl).trans (forall₄_congr fun _ _ _ _ => biplanarSlots_eq_iff)
    _ ↔ (∀ line < d.fullRasterHeight, ∀ k < lineBytes, same (line * d.pitch0 + k)) ∧
          ∀ line < d.fullRasterHeight, ∀ k < lineBytes,
            same (d.pitch0 * d.fullRasterHeight + line / 2 * d.pitch1 + k) := by
        simp only [forall_and, lumaGroupAt, hchroma, hline]
    _ ↔ _ := and_congr_right' (forall_lt_half heven
        (P := fun c => ∀ k < lineBytes, same (d.pitch0 * d.fullRasterHeight + c * d.pitch1 + k)))

end Sys2Proof.Machine
end

section
/-! ## `BLIT`

Its checks in their order, what it copies, and where a byte that it changes lies (44_raster_transforms.md R251 to R255). -/

namespace Sys2Proof.Machine

/-! ### The checks -/

theorem granularity_formatOfCode : ∀ n, granularity (formatOfCode n) =
    ([some (16, 6), some (16, 6), some (4, 2), some (3, 1), some (4, 1), some (6, 1), some (4, 1), some (4, 1), none,
      some (20, 16)] : List (Option (Nat × Nat))).getD n none
  | 0 | 1 | 2 | 3 | 4 | 5 | 6 | 7 | 8 | 9 | 10 | 11 | 12 | _ + 13 => rfl

section
variable {fmt : PixelFormat} {gB gP : Nat} {b : BlitArgs}

theorem exec_blit_null (h : b.srcAddr = 0 ∨ b.dstAddr = 0) (s : State) :
    exec (.blit fmt b) s = .next (failedWith s 4) :=
  exec_of_effect_failed (i := .blit fmt b) (code := .nullBuffer) (if_pos h)

theorem exec_blit_unsupported (hnull : b.srcAddr ≠ 0 ∧ b.dstAddr ≠ 0) (hg : granularity fmt = none) (s : State) :
    exec (.blit fmt b) s = .next (failedWith s 1) := by
  have heffect : effectBlit fmt b s = .failed .unsupportedFormat .notMade := by
    rw [effectBlit, if_neg (not_or.2 hnull), hg]
  exact exec_of_effect_failed (i := .blit fmt b) heffect

theorem exec_blit_of_failure (hnull : b.srcAddr ≠ 0 ∧ b.dstAddr ≠ 0) (hg : granularity fmt = some (gB, gP))
    {code : FailCode} (hf : blitFailure gP b = some code) (s : State) :
    exec (.blit fmt b) s = .next (failedWith s (failNumber code)) := by
  have heffect : effectBlit fmt b s = .failed code .notMade := by
    rw [effectBlit, if_neg (not_or.2 hnull), hg]
    dsimp only
    rw [hf]
  exact exec_of_effect_failed (i := .blit fmt b) heffect

end

/-- Settles O53: the table of granularities row by row, and the chain of checks check by check. -/
theorem blitChecks : Obligations.BlitChecks := by
  refine ⟨fun n _ => granularity_formatOfCode n, fun fmt b s => ⟨fun hnull => exec_blit_null hnull s, fun hsrc hdst =>
    ⟨fun hg => exec_blit_unsupported ⟨hsrc, hdst⟩ hg s, fun gB gP hg => ⟨fun hgeometry => ?_, fun hgeometry hfits => ?_⟩⟩⟩⟩
  · have hf : blitFailure gP b = some .badGeometry := by rw [blitFailure_eq, if_pos hgeometry]
    exact exec_blit_of_failure ⟨hsrc, hdst⟩ hg hf s
  · have hf : blitFailure gP b = some .badBufferSize := by
      rw [blitFailure_eq, if_neg (not_not.2 hgeometry), if_pos hfits]
    exact exec_blit_of_failure ⟨hsrc, hdst⟩ hg hf s

/-! ### The copy -/

/-- Settles O54: the clipped width and height are the model's own, written out. -/
theorem blitCopies : Obligations.BlitCopies := by
  intro fmt gB gP b s hg hm hready
  obtain ⟨t, ht, hrest⟩ := blit_completes hg (rising_of_wf hm) hready
  exact ⟨t, (exec_eq_complete _ s).trans ht, hrest⟩

/-- A `BLIT` that completes was ready, or it has left memory as it was: it failed, or its rectangle was clipped to
nothing. -/
theorem mem_eq_or_blitReady_of_next {fmt : PixelFormat} {gB gP : Nat} {b : BlitArgs} {s t : State}
    (hg : granularity fmt = some (gB, gP)) (ht : exec (.blit fmt b) s = .next t) : t.mem = s.mem ∨ BlitReady gP b s := by
  have hmem_of_next {u : State} (hu : exec (.blit fmt b) s = .next u) (hm : u.mem = s.mem) : t.mem = s.mem :=
    (congrArg State.mem (Host.Outcome.next.inj (ht.symm.trans hu))).trans hm
  by_cases hnull : b.srcAddr = 0 ∨ b.dstAddr = 0
  · exact .inl (hmem_of_next (exec_blit_null hnull s) rfl)
  · have hnull := not_or.1 hnull
    rcases blitFailure_cases gP b with hf | hf | ⟨hf, hsame, hempty, hwhole, hfits⟩
    · exact .inl (hmem_of_next (exec_blit_of_failure hnull hg hf s) rfl)
    · exact .inl (hmem_of_next (exec_blit_of_failure hnull hg hf s) rfl)
    · by_cases hclip : blitRowBytes gB gP b = 0 ∨ clipHeight b = 0
      · exact .inl (hmem_of_next (exec_blit_clipped hg hnull hf hclip) rfl)
      · have hapart := premises_of_next (stopsOn_of_guarded (i := .blit fmt b) (effectBlit_guarded hg hnull hf hclip)) ht
        exact .inr ⟨hnull, hsame, hempty, hwhole, hfits, hapart⟩

/-- Every byte that a `BLIT` stores lies in a line of the destination raster, within the whole pixels of its pitch. -/
theorem blitStores_inside {gB gP : Nat} {b : BlitArgs} {x : Nat} (hP : 0 < gP) (hx : b.dstX % gP = 0)
    (h : blitStores gB gP b x) :
    ∃ line < b.dstHeight, ∃ column < b.dstPitch / gB * gB,
      column < b.dstPitch ∧ x = b.dstAddr + line * b.dstPitch + column := by
  obtain ⟨r, hr, j, hj, rfl⟩ := h
  obtain ⟨hline, -⟩ := clipHeight_lt hr
  have hrow := blit_row_in_pitch hP hx (Nat.zero_lt_of_lt hj)
  have hpitch := Nat.div_mul_le_self b.dstPitch gB
  exact ⟨b.dstY + r, hline, b.dstX / gP * gB + j, by omega, by omega, by rw [blitTarget, Nat.add_assoc _ _ j]⟩

/-- Settles O55: a byte that has changed is one of those that a ready `BLIT` stores. -/
theorem blitStaysInside : Obligations.BlitStaysInside := by
  intro fmt gB gP b s t hg hm ht x hchanged
  rcases mem_eq_or_blitReady_of_next hg ht with hmem | hready
  · exact absurd (by rw [hmem]) hchanged
  · obtain ⟨t', ht', hended, -⟩ := blit_completes hg (rising_of_wf hm) hready
    obtain rfl : t' = t := Host.Outcome.next.inj (ht'.symm.trans ((exec_eq_complete _ s).symm.trans ht))
    have hstored : blitStores gB gP b x := by
      by_contra hn
      exact hchanged (hended.memory x hn)
    obtain ⟨-, -, hdstX⟩ := hready.whole
    exact blitStores_inside (granularity_pos hg).2 hdstX hstored

end Sys2Proof.Machine
end

section
/-! ## `QSPLIT` and `QMERGE`

Their checks in their order, what they copy, and that a quadrant merged in splits back out (44_raster_transforms.md R256 to
R260). -/

namespace Sys2Proof.Machine

/-! ### The checks -/

theorem exec_quad_of_failure {a : QuadArgs} {code : FailCode} (hf : quadFailure a = some code) (q : Quadrant) (s : State) :
    exec (.qsplit q a) s = .next (failedWith s (failNumber code)) ∧
      exec (.qmerge q a) s = .next (failedWith s (failNumber code)) := by
  have hsplit : effectQsplit q a s = .failed code .notMade := by rw [effectQsplit, hf]
  have hmerge : effectQmerge q a s = .failed code .notMade := by rw [effectQmerge, hf]
  exact ⟨exec_of_effect_failed (i := .qsplit q a) hsplit, exec_of_effect_failed (i := .qmerge q a) hmerge⟩

/-- Settles O56: both operations make the same checks. -/
theorem quadChecks : Obligations.QuadChecks := by
  intro q a s
  refine ⟨fun hnull => ?_, fun hfull hquad => ⟨fun hgeometry => ?_, fun hgeometry hfits => ?_⟩⟩
  · have hf : quadFailure a = some .nullBuffer := if_pos hnull
    exact exec_quad_of_failure hf q s
  · have hf : quadFailure a = some .badGeometry := by
      rw [quadFailure_eq, if_neg (not_or.2 ⟨hfull, hquad⟩), if_pos hgeometry]
    exact exec_quad_of_failure hf q s
  · have hf : quadFailure a = some .badBufferSize := by
      rw [quadFailure_eq, if_neg (not_or.2 ⟨hfull, hquad⟩), if_neg (not_not.2 hgeometry)]
      exact if_pos hfits
    exact exec_quad_of_failure hf q s

/-! ### The copies -/

/-- The origin of a quadrant is the sum of its line's part and its column's part (44_raster_transforms.md R256). -/
theorem quadRowInFull_eq (q : Quadrant) (a : QuadArgs) (r : Nat) :
    quadRowInFull q a r = a.fullAddr + ((if q = .lowerLeft ∨ q = .lowerRight then quadHeight a * a.fullPitch else 0) +
      (if q = .upperRight ∨ q = .lowerRight then quadPitch a - a.quad13Offset else 0)) + r * a.fullPitch := by
  cases q <;> simp [quadRowInFull, quadOrigin]

/-- Settles O57: the rows of the image are those at the quadrant's origin. -/
theorem quadrantSplit : Obligations.QuadrantSplit := by
  intro q a s hm qPitch qHeight origin hready
  obtain ⟨t, ht, hended, hdrawn, hrows⟩ := qsplit_completes (q := q) (rising_of_wf hm) hready
  exact ⟨t, (exec_eq_complete _ s).trans ht, hended, hdrawn, fun r hr j hj => quadRowInFull_eq q a r ▸ hrows r hr j hj⟩

/-- Settles O58: the rows at the quadrant's origin are those of the image. -/
theorem quadrantMerge : Obligations.QuadrantMerge := by
  intro q a s hm qPitch qHeight origin hready
  obtain ⟨t, ht, hended, hdrawn, hrows⟩ := qmerge_completes (q := q) (rising_of_wf hm) hready
  exact ⟨t, (exec_eq_complete _ s).trans ht, hended, hdrawn, fun r hr j hj => quadRowInFull_eq q a r ▸ hrows r hr j hj⟩

/-! ### The round trip -/

/-- The bytes of a quadrant image are those of its rows, which lie without a gap. -/
theorem forall_lt_image {a : QuadArgs} {P : Nat → Prop} :
    (∀ i < quadPitch a * quadHeight a, P i) ↔ ∀ r < quadHeight a, ∀ j < quadPitch a, P (r * quadPitch a + j) := by
  rw [Nat.mul_comm, forall_lt_groups]
  simp only [Nat.mul_comm (quadPitch a)]

/-- Settles O59: row `r` of the copy is read at the quadrant's origin, where row `r` of the image was written. -/
theorem mergeThenSplit : Obligations.MergeThenSplit := by
  intro q a b s hm full image copy hb hmerge hsplit
  obtain ⟨copyAddr, rfl⟩ : ∃ copyAddr, b = { a with quadAddr := copyAddr } := ⟨_, hb⟩
  obtain ⟨t, ht, hended, -, hin⟩ := qmerge_completes (q := q) (rising_of_wf hm) hmerge
  have hmt : Rising t.mem := complete_rising ht (rising_of_wf hm)
  have hsplit_t : QuadReady { a with quadAddr := copyAddr } t full copy :=
    ⟨hsplit.passes, premises_congr hended.unbacked hsplit.apart⟩
  obtain ⟨u, hu, -, -, hout⟩ := qsplit_completes (q := q) hmt hsplit_t
  refine ⟨t, u, (exec_eq_complete _ s).trans ht, (exec_eq_complete _ t).trans hu, ?_⟩
  refine (forall_lt_image (a := a)).2 fun r hr j hj => ?_
  calc memByte u.mem (copyAddr + (r * quadPitch a + j))
      = memByte u.mem (copyAddr + r * quadPitch a + j) := by rw [Nat.add_assoc]
    _ = memByte t.mem (quadRowInFull q a r + j) := hout r hr j hj
    _ = memByte s.mem (a.quadAddr + r * quadPitch a + j) := hin r hr j hj
    _ = memByte s.mem (a.quadAddr + (r * quadPitch a + j)) := by rw [Nat.add_assoc]

end Sys2Proof.Machine
end

section
/-! ## How an operation ends

It fails, which touches only `STATUS` and `RES`, or it succeeds, or it stops in one of the two ways of `Effect.Sound`
(60_exceptions.md R280, R286, R288, logs 6 and 7). -/

namespace Sys2Proof.Machine

/-- `effectOf_sound` with the one difference that failures know: only `CMPV` makes a comparison that is unsupported
(43_component_reader.md R231). -/
theorem effectOf_sound_compares (i : Instr) (s : State) :
    (effectOf i s).Sound successStatuses (∃ fmt vm v, i = .cmpv fmt vm v) s := by
  rcases effectOf_sound i s with ⟨-, -, -, -, h⟩ | ⟨fmt, vm, v, hi, h⟩ | ⟨-, -, h⟩
  · exact h.mono (by decide) False.elim
  · exact h.mono (by decide) fun _ => ⟨fmt, vm, v, hi⟩
  · exact h.mono (by decide) False.elim

/-! ### Failure -/

/-- The `STATUS` values of a failure: the five codes of 60_exceptions.md R281, and `CMPV`'s unsupported comparison. -/
theorem statusFailed_mem {code : FailCode} {cmp : Comparison}
    (h : cmp = .notMade ∨ cmp = .unsupported ∧ code = .unsupportedFormat) :
    statusFailed code cmp ∈ [0x013#32, 0x023#32, 0x033#32, 0x043#32, 0x0F3#32, 0x313#32] := by
  rcases h with rfl | ⟨rfl, rfl⟩
  · cases code <;> decide
  · decide

/-- A failure without a comparison has `CMP = 0`, which 0x313 has not. -/
theorem statusFailed_notMade_ne (code : FailCode) : statusFailed code .notMade ≠ 0x313 := by cases code <;> decide

/-- A next state with `FAIL = 1` is the one that `raise Fail(code)` leaves: no success sets `FAIL`. -/
theorem exec_failed {i : Instr} {s t : State} (h : exec i s = .next t) (hfail : failBit t.status = true) :
    ∃ code cmp, t = raiseFail code cmp s ∧
      (cmp = .notMade ∨ cmp = .unsupported ∧ code = .unsupportedFormat ∧ ∃ fmt vm v, i = .cmpv fmt vm v) := by
  have hsound := effectOf_sound_compares i s
  rw [exec_eq_complete] at h
  rcases complete_next.1 h with ⟨status, res, runs, draws, he, rfl⟩ | ⟨code, cmp, he, rfl⟩ <;> rw [he] at hsound
  · obtain ⟨hstatus, -⟩ := hsound
    rw [succeed_status, (successStatuses_legal status hstatus).2] at hfail
    cases hfail
  · obtain ⟨-, hcmp⟩ := hsound
    exact ⟨code, cmp, rfl, hcmp⟩

/-- Settles O15: the state is that of `raiseFail`, and its `STATUS` is 0x313 only where a comparison is unsupported. -/
theorem failureLeavesMemoryUnchanged : Obligations.FailureLeavesMemoryUnchanged := by
  intro i s t h hfail
  obtain ⟨code, cmp, rfl, hcmp⟩ := exec_failed h hfail
  refine ⟨rfl, ?_, fun hstatus => ?_⟩
  · rw [raiseFail_status]
    exact statusFailed_mem (hcmp.imp_right fun ⟨hu, hf, _⟩ => ⟨hu, hf⟩)
  · rw [raiseFail_status] at hstatus
    rcases hcmp with rfl | ⟨-, -, hcmpv⟩
    · exact absurd hstatus (statusFailed_notMade_ne code)
    · exact hcmpv

/-! ### Stops -/

/-- The ways in which a sound effect can end. -/
theorem Effect.Sound.complete_cases {statuses : List Word} {compares : Prop} {s : State} {e : Effect}
    (h : e.Sound statuses compares s) :
    (∃ t, complete e s = .next t) ∨ complete e s = .refused .overlappingBuffers ∨
      (complete e s = .fault .unbackedMemory ∧ s.unbacked ≠ []) := by
  cases e with
  | done status res runs draws => exact .inl ⟨_, rfl⟩
  | failed code cmp => exact .inl ⟨_, rfl⟩
  | faulted f =>
    cases f
    exact .inr (.inr ⟨rfl, h⟩)
  | outside r => exact .inr (.inl (congrArg Host.Outcome.refused h))

/-- `DESC` answers a next state whether or not its fields fit (40_catalog_descriptor.md R129). -/
theorem exec_desc_answers (fmt : PixelFormat) (vm : Bool) (r : RasterSize) (s : State) :
    ∃ t, exec (.desc fmt vm r) s = .next t := by
  by_cases hlarge : ∃ v ∈ descriptorFields (mkDesc fmt r vm), 2 ^ 32 ≤ v
  · exact ⟨_, exec_desc_of_large hlarge s⟩
  · push Not at hlarge
    exact ⟨_, exec_desc_of_fits hlarge s⟩

/-- Settles O19: every command's effect is sound, and `GEOM` and `DESC` touch no memory. -/
theorem nothingElseStops : Obligations.NothingElseStops := by
  refine ⟨fun i s => ?_, fun fmt vm r s => ⟨⟨_, exec_geom fmt s⟩, exec_desc_answers fmt vm r s⟩⟩
  rw [exec_eq_complete]
  exact (effectOf_sound_compares i s).complete_cases

end Sys2Proof.Machine
end

section
/-! ## The host's queue

A step by what the host asks next (70_reset_and_hazards.md R340, R341, log 2): the step of a `GO` write is `step_go` and
`step_go_refused`; here are the other actions and the empty queue. -/

namespace Sys2Proof.Machine

section
variable {s : State} {action : HostAction} {rest : List HostAction} {i : Instr}

theorem step_goThenReset_refused (hp : s.pending = .goThenReset :: rest) (hi : decode s.cmd = .ok i)
    (hb : breaksRequire i s) : step s = .refused .oversizeSample :=
  step_of_startsUndefined hp ((startsUndefined_iff _ s).2 ⟨.inr rfl, i, hi, hb⟩)

/-- Nothing undefined starts where `CMD` breaks no `require`, nor by an action other than a `CTRL` write and a reset in
flight. -/
theorem not_startsUndefined
    (h : (∀ i, decode s.cmd = .ok i → ¬ breaksRequire i s) ∨
      (action ≠ .goThenReset ∧ ∀ v, action ≠ .writeReg 0x40 v)) :
    ¬ startsUndefined action s = true := by
  rw [startsUndefined_iff]
  rintro ⟨hstarts, i, hi, hb⟩
  rcases h with hfits | ⟨hreset, hctrl⟩
  · exact hfits i hi hb
  · rcases hstarts with ⟨v, hgo, -⟩ | habandon
    · exact hctrl v hgo
    · exact hreset habandon

theorem step_reset (hp : s.pending = .reset :: rest) : step s = .next (resetRegisters { s with pending := rest }) :=
  step_of_not_startsUndefined hp (not_startsUndefined (.inr ⟨nofun, nofun⟩))

theorem step_idle (hp : s.pending = []) : step s = .next s := by
  rw [step, nextAction, hp]

end

/-- Settles O11: the step is by whether the next action starts something undefined. -/
theorem stepRunsTheDecodedCommand : Obligations.StepRunsTheDecodedCommand := by
  refine ⟨fun s v rest i hp hv hi _ => ⟨step_go hp hv hi, step_go_refused hp hv hi⟩,
    fun s rest i => step_goThenReset_refused, fun s action rest hp h => ?_, fun s rest hp => ?_, fun s => step_idle⟩
  · exact step_of_not_startsUndefined hp (not_startsUndefined h)
  · exact ⟨_, step_reset hp, rfl, rfl, rfl, rfl, rfl, rfl⟩

end Sys2Proof.Machine
end

section
/-! ## A reset in flight

An abandoned operation has done a prefix of its writes (70_reset_and_hazards.md R310, log 9). No two writes of one operation
fall on the same byte (`Effect.Sound`), so that a byte has its old value or already its last one. -/

namespace Sys2Proof.Machine

/-- No byte lies in two of the runs. -/
abbrev RunsDisjoint (runs : List Run) : Prop :=
  runs.Pairwise fun p q => p.1 + p.2.length ≤ q.1 ∨ q.1 + q.2.length ≤ p.1

/-- Runs cut short stay clear of one another. -/
theorem firstWrites_disjoint {runs : List Run} (h : RunsDisjoint runs) (n : Nat) : RunsDisjoint (firstWrites n runs) := by
  induction runs generalizing n with
  | nil => exact .nil
  | cons r rest ih =>
    obtain ⟨hr, hrest⟩ := List.pairwise_cons.1 h
    refine List.pairwise_cons.2 ⟨fun q hq => ?_, ih hrest _⟩
    obtain ⟨p, hp, haddr, k, hbytes⟩ := firstWrites_mem hq
    have hclear := hr p hp
    have hhead : (r.2.take n).length ≤ r.2.length := List.length_take_le' ..
    have htail : q.2.length ≤ p.2.length := hbytes ▸ List.length_take_le' ..
    dsimp only
    omega

/-- After the first writes of disjoint runs, a byte that one of them reached reads as it will at the end, and every other
byte as before. -/
theorem memByte_storeRuns_firstWrites {m : Memory} (hm : Rising m) {runs : List Run} (hd : RunsDisjoint runs) (n x : Nat) :
    memByte (storeRuns m (firstWrites n runs)) x = memByte m x ∨
      memByte (storeRuns m (firstWrites n runs)) x = memByte (storeRuns m runs) x := by
  by_cases hreached : ∃ q ∈ firstWrites n runs, q.1 ≤ x ∧ x < q.1 + q.2.length
  · right
    obtain ⟨q, hq, hbase, hend⟩ := hreached
    obtain ⟨i, rfl⟩ := Nat.exists_eq_add_of_le hbase
    have hi : i < q.2.length := Nat.lt_of_add_lt_add_left hend
    obtain ⟨r, hr, haddr, k, hbytes⟩ := firstWrites_mem hq
    have hir : i < r.2.length := hi.trans_le (hbytes ▸ List.length_take_le' ..)
    calc memByte (storeRuns m (firstWrites n runs)) (q.1 + i)
        = q.2[i] := memByte_storeRuns_inside hm (firstWrites_disjoint hd n) hq hi
      _ = r.2[i] := by simp only [hbytes, List.getElem_take]
      _ = memByte (storeRuns m runs) (q.1 + i) := haddr ▸ (memByte_storeRuns_inside hm hd hr hir).symm
  · left
    refine memByte_storeRuns_outside hm fun q hq => ?_
    by_contra hinside
    exact hreached ⟨q, hq, by omega, by omega⟩

section
variable {s t u : State}

/-- Whether or not `CMD` spells a command, no byte is written twice by its effect. -/
theorem commandEffect_disjoint {status : Word} {res : Vector Word 12} {runs : List Run} {draws : Nat}
    (h : commandEffect s = .done status res runs draws) : RunsDisjoint runs := by
  unfold commandEffect at h
  split at h
  · next i _ =>
    have hsound := effectOf_sound_success i s
    rw [h] at hsound
    obtain ⟨-, -, hruns⟩ := hsound
    exact hruns
  · cases h

/-- An abandoned operation leaves what reset leaves, but for memory and the model's own count of free values. -/
theorem abandon_eq_resetRegisters {e : Effect} (h : abandon e s = .next t) :
    ∃ mem drawn, t = resetRegisters { s with mem := mem, drawn := drawn } := by
  rcases abandon_next h with ⟨_, _, _, _, -, _, rfl⟩ | ⟨-, rfl⟩
  · exact ⟨_, _, rfl⟩
  · exact ⟨s.mem, s.drawn, rfl⟩

/-- Each byte after an abandoned operation, against the state `u` that the whole operation leaves. -/
theorem memByte_abandon (hm : Rising s.mem) (hu : complete (commandEffect s) s = .next u)
    (ht : abandon (commandEffect s) s = .next t) (x : Nat) :
    memByte t.mem x = memByte s.mem x ∨ memByte t.mem x = memByte u.mem x := by
  rcases abandon_next ht with ⟨status, res, runs, draws, he, n, rfl⟩ | ⟨-, rfl⟩
  · rw [he] at hu
    cases hu
    exact memByte_storeRuns_firstWrites hm (commandEffect_disjoint he) n x
  · exact .inl rfl

end

/-- Settles O21: the operation that runs to its end and the one that is abandoned have one effect. -/
theorem abandonedOperation : Obligations.AbandonedOperation := by
  intro s t u hwf hu ht
  rw [perform_writeReg_go s (by decide), runCommand_eq_complete] at hu
  have hbytes := memByte_abandon (rising_of_wf hwf) hu ht
  obtain ⟨mem, drawn, rfl⟩ := abandon_eq_resetRegisters ht
  refine ⟨fun i => ?_, rfl, fun i => ?_, ⟨rfl, rfl, rfl, rfl⟩, hbytes⟩
  · exact Vector.getElem_replicate i.isLt
  · exact Vector.getElem_replicate i.isLt

/-- A `PACK.Y8P` of eight groups in `CMD`, whose first cell is 0xFF: an operation that stores bytes. -/
def packInFlight : State :=
  { State.reset with cmd := encode (.packY8P ⟨0x1000, 96, 0x2000, 128, 16, none⟩), mem := [(0x2000, 0xFF)] }

/-- The hypotheses of O21 are met where the operation, run to its end, changes a byte. -/
theorem packInFlight_completes_and_abandons : Memory.wf packInFlight.mem ∧
    (∃ u, perform (.writeReg 0x40 1) packInFlight = .next u ∧ ∃ x, memByte u.mem x ≠ memByte packInFlight.mem x) ∧
      ∃ t, perform .goThenReset packInFlight = .next t :=
  ⟨by decide, ⟨_, rfl, 0x1000, by decide⟩, _, rfl⟩

end Sys2Proof.Machine
end

section
/-! ## Commands written out

A command's numbers are those that the encoder writes for the instruction the command stands for, the fields of `CMD[0]`
summed (30_encoding.md R81 to R87), and the encoder's words decode (O1). -/

namespace Sys2Proof.Machine

theorem decode_of_encode_eq {i : Instr} {cmd : Command} (hwf : WellFormed i) (hwords : encode i = cmd) :
    decode cmd = .ok i :=
  hwords ▸ encodeThenDecode i hwf

/-- Settles O3: each command is well formed, and its words are the encoder's. -/
theorem sampleWordsDecode : Obligations.SampleWordsDecode := by
  refine ⟨?geom, ?desc, ?unpack, ?pack, ?cscY2R, ?cmpv, ?blit, ?qsplit⟩ <;> exact decode_of_encode_eq (by decide) rfl

end Sys2Proof.Machine
end
